-- ==== Sys2Proof/Word.lean ====
section
/-! DEFINITION. The word types of the block (R16, 00_scope.md): u8, u16 and u32. Every value is unsigned. -/

namespace Sys2Proof

/-- A u8: a protocol unit's byte, a pattern byte, a byte of host memory. -/
abbrev Byte := BitVec 8

/-- A u16: a coordinate, a width, a colour. -/
abbrev Half := BitVec 16

/-- A u32: a word of a request descriptor, a host address (ADDR_W = 32, R13), a byte count. -/
abbrev Word := BitVec 32

end Sys2Proof
end

