-- ==== Sys2Proof/Config.lean ====
section
/-! DEFINITION. The parameters of the block (R5 to R15, 00_scope.md; R47, 10_state.md), the constants the source fixes,
and the one free value. A configuration is fixed before reset and constant during a run. -/

namespace Sys2Proof

/-- TAB_COLOR (R5): the panel variant. -/
inductive TabColor where
  | greentab
  | redtab
  | blacktab
  | greentab144
  deriving DecidableEq, Repr

/-- INIT_ERROR_POLICY (R11). -/
inductive InitErrorPolicy where
  | abort
  | ignore
  deriving DecidableEq, Repr

/-- LENGTH_CHECK (R12). -/
inductive LengthCheck where
  | fault
  | unchecked
  deriving DecidableEq, Repr

/-- MADCTL_ROT (R10): the MADCTL data byte of each orientation, one column for BLACKTAB (RGB) and one for every other
variant (BGR), as R113 lays the table out. -/
structure MadctlRot where
  rgb0 : Byte
  rgb90 : Byte
  rgb180 : Byte
  rgb270 : Byte
  bgr0 : Byte
  bgr90 : Byte
  bgr180 : Byte
  bgr270 : Byte
  deriving DecidableEq, Repr

/-- SPI_FORMAT (R15): an open parameter of the transport. No rule reads it. -/
structure SpiFormat where
  clockHz : Nat
  cpol : Bool
  cpha : Bool
  lsbFirst : Bool
  deriving DecidableEq, Repr

/-- PINS (R15): the pin numbers, an open parameter of the transport. No rule reads them. Which pins it holds is a DESIGN
CHOICE (entry 3, safe): R15 says "the SPI, D/C and reset pin numbers" and no file lists the SPI pins; the model takes the
two that carry data to the panel, SCK and MOSI, and no chip select and no MISO. -/
structure Pins where
  sck : Nat
  mosi : Nat
  dc : Nat
  rst : Nat
  deriving DecidableEq, Repr

/-- The configuration (R47). ADDR_W is the constant `Config.addrW` below. -/
structure Config where
  /-- TAB_COLOR (R5) -/
  tabColor : TabColor
  /-- CHUNK_MAX (R6) -/
  chunkMax : Nat
  /-- PANEL_W (R8) -/
  panelW : Nat
  /-- PANEL_H (R8) -/
  panelH : Nat
  /-- INIT_COL, its start c0 and end c1 (R9) -/
  initCol0 : Half
  initCol1 : Half
  /-- INIT_ROW, its start r0 and end r1 (R9) -/
  initRow0 : Half
  initRow1 : Half
  /-- MADCTL_ROT (R10) -/
  madctlRot : MadctlRot
  /-- INIT_ERROR_POLICY (R11) -/
  initErrorPolicy : InitErrorPolicy
  /-- LENGTH_CHECK (R12) -/
  lengthCheck : LengthCheck
  /-- SPI_FORMAT (R15) -/
  spiFormat : SpiFormat
  /-- PINS (R15) -/
  pins : Pins
  deriving DecidableEq, Repr

/-- The default table of R113. Row 0 is the source's. Rows 90, 180 and 270 are PRESUMED by the spec from general
knowledge (G9, entry 17); unsafe if the panel wants other bytes. -/
def MadctlRot.default : MadctlRot :=
  { rgb0 := 0xC0, rgb90 := 0xA0, rgb180 := 0x00, rgb270 := 0x60
    bgr0 := 0xC8, bgr90 := 0xA8, bgr180 := 0x08, bgr270 := 0x68 }

/-- The reference configuration of R6 to R12. TAB_COLOR has no reference value (R5): DESIGN CHOICE, BLACKTAB, as in the
reference configuration of 95_test_vectors.md; SPI_FORMAT and PINS have no values: DESIGN CHOICE, zeros (entry 3,
unsafe for a claim that rests on them). -/
def Config.reference : Config :=
  { tabColor := .blacktab
    chunkMax := 250
    panelW := 240
    panelH := 240
    initCol0 := 0
    initCol1 := 240
    initRow0 := 80
    initRow1 := 240
    madctlRot := .default
    initErrorPolicy := .abort
    lengthCheck := .fault
    spiFormat := { clockHz := 0, cpol := false, cpha := false, lsbFirst := false }
    pins := { sck := 0, mosi := 0, dc := 0, rst := 0 } }

/-- FILL_CHUNK (R7): fixed by the source. -/
def Config.fillChunk : Nat := 32

/-- ADDR_W (R13): the width in bits of a host buffer address. -/
def Config.addrW : Nat := 32

/-- T_SWRESET (R14), in milliseconds; like the five below a minimum, not a parameter. -/
def Config.tSwreset : Nat := 150

/-- T_SLPOUT (R14). -/
def Config.tSlpout : Nat := 500

/-- T_COLMOD (R14). -/
def Config.tColmod : Nat := 10

/-- T_INVON (R14). -/
def Config.tInvon : Nat := 10

/-- T_NORON (R14). -/
def Config.tNoron : Nat := 10

/-- T_DISPON (R14). -/
def Config.tDispon : Nat := 500

/-- FREE VALUE (entry 16, DESIGN CHOICE that the spec states no value here; safe): what CUR holds after a chunk that
ends exactly at 2^32. R40 makes CUR advance by the chunk's length, R16 lets no register hold 2^32 and says that no
register wraps, and no check stops such a chunk (V28). It is applied to the count of earlier draws. -/
opaque Config.curPastTop : Nat → Word

end Sys2Proof
end

