-- ==== Sys2Proof/Syntax.lean ====
section
/-! DEFINITION. The two instruction sets of the block as one syntax (R100, 30_encoding.md): the eight host requests and
the eleven wire commands, one constructor per row of spec/opcode_table.json, and the two encoded forms. -/

namespace Sys2Proof

/-- A request descriptor (R101): exactly five 32-bit words, delivered together on the request port. -/
structure Descriptor where
  w0 : Word
  w1 : Word
  w2 : Word
  w3 : Word
  w4 : Word
  deriving DecidableEq, Repr

/-- The encoded forms (R100): a request descriptor, or the byte of one command unit (R106). -/
inductive Code where
  | request (d : Descriptor)
  | wire (b : Byte)
  deriving DecidableEq, Repr

/-- One constructor per row of the opcode table. An operand's type has exactly the width of its field (R105). -/
inductive Instr where
  /-- INIT (R200) -/
  | init
  /-- UNINIT (R212) -/
  | uninit
  /-- PIXEL_DRAW x, y, color (R177) -/
  | pixelDraw (x y color : Half)
  /-- RECT_DRAW x, y, w, h, color (R171) -/
  | rectDraw (x y w h color : Half)
  /-- BUFFER_DRAW x, y, w, h, ptr, len (R174) -/
  | bufferDraw (x y w h : Half) (ptr len : Word)
  /-- ROTATION_SET o (R213): 0 = 0°, 1 = 90°, 2 = 180°, 3 = 270° (R39) -/
  | rotationSet (orient : BitVec 2)
  /-- DISPLAY_INVERT b (R214) -/
  | displayInvert (inv : Bool)
  /-- DISPLAY (R215) -/
  | display
  /-- SWRESET, software-reset (R240) -/
  | swreset
  /-- SLPOUT, sleep-out (R241) -/
  | slpout
  /-- NORON, normal-display-on (R242) -/
  | noron
  /-- INVOFF, color-inversion-off (R243) -/
  | invoff
  /-- INVON, color-inversion-on (R244) -/
  | invon
  /-- DISPON, display-on (R245) -/
  | dispon
  /-- CASET, column-address-set (R246) -/
  | caset
  /-- RASET, row-address-set (R247) -/
  | raset
  /-- RAMWR, memory write (R248) -/
  | ramwr
  /-- MADCTL, memory-access-control (R249) -/
  | madctl
  /-- COLMOD, color-mode (R250) -/
  | colmod
  deriving DecidableEq, Repr

/-- Is the instruction a wire command (R108), not a host request (R102)? -/
def Instr.isWire : Instr → Bool
  | .init => false
  | .uninit => false
  | .pixelDraw _ _ _ => false
  | .rectDraw _ _ _ _ _ => false
  | .bufferDraw _ _ _ _ _ _ => false
  | .rotationSet _ => false
  | .displayInvert _ => false
  | .display => false
  | .swreset => true
  | .slpout => true
  | .noron => true
  | .invoff => true
  | .invon => true
  | .dispon => true
  | .caset => true
  | .raset => true
  | .ramwr => true
  | .madctl => true
  | .colmod => true

end Sys2Proof
end

