-- ==== Sys2Proof/Machine/State.lean ====
section
/-! DEFINITION. The state of the machine (10_state.md): the block's registers, TRACE, and what the HOST, TRANSPORT and
DELAY agents hold (R30), as plain data; its stops; and its value at reset (R300). -/

namespace Sys2Proof.Machine

/-- The level of the select line DC (R42, R107). -/
inductive Level where
  | cmd
  | data
  deriving DecidableEq, Repr

/-- An answer of T.acquire or T.xfer (R17): a free draw of the TRANSPORT. -/
inductive Answer where
  | ok
  | err
  deriving DecidableEq, Repr

/-- The events of TRACE (R18). -/
inductive Event where
  | acquire (r : Answer)
  | release
  | dc (l : Level)
  | xfer (l : Level) (bs : List Byte) (r : Answer)
  | wait (ms : Nat)
  deriving DecidableEq, Repr

/-- LC, the lifecycle (R32). -/
inductive Lc where
  | off
  | ready
  | initFailed
  deriving DecidableEq, Repr

/-- A status of RESP (R261). -/
inductive Status where
  | success
  | errAcquire
  | errTransfer
  deriving DecidableEq, Repr

/-- A contract fault code of FAULT (R262). -/
inductive FaultCode where
  | reentrant
  | illegalRequest
  | notReady
  | badWindow
  | countOverflow
  | lengthMismatch
  | bufferWrap
  deriving DecidableEq, Repr

/-- The source of a stream's chunks (R144). -/
inductive Src where
  | pat
  | pix
  | mem
  deriving DecidableEq, Repr

/-- The call of the ENGINE that the TRANSPORT or the DELAY has not answered yet (R140, R314). -/
inductive Pending where
  /-- T.acquire -/
  | acquire
  /-- T.xfer of one unit, by writeCommand or writeData -/
  | unit (l : Level) (b : Byte)
  /-- T.xfer of a stream's chunk at DATA -/
  | chunk (src : Src) (bs : List Byte)
  /-- D.wait -/
  | wait (ms : Nat)
  deriving DecidableEq, Repr

/-- A coming move of the world outside the block (entry 9). -/
inductive HostMove where
  /-- the HOST issues a request, once the block is not busy (R30) -/
  | call (d : Descriptor)
  /-- a request presented at once, busy or not (the breach of R308) -/
  | intrude (d : Descriptor)
  /-- the HOST or another agent writes a byte of host memory (R82, R310) -/
  | poke (addr : Word) (b : Byte)
  /-- the TRANSPORT gives its next answer (R30, R314) -/
  | answer (r : Answer)
  /-- the DELAY returns once more (R30, R314) -/
  | wake
  /-- the outside world lets the block take one step -/
  | pass
  /-- the block is reset (R300) -/
  | reset
  deriving DecidableEq, Repr

structure State where
  /-- the configuration (R47): read-only, in the state so that a claim covers every configuration (entry 3) -/
  cfg : Config
  /-- LC (R32) -/
  lc : Lc
  /-- BUSY (R33) -/
  busy : Bool
  /-- SEQ (R34) -/
  seq : Nat
  /-- OP (R35) -/
  op : BitVec 4
  /-- X0 (R36) -/
  x0 : Half
  /-- Y0 (R36) -/
  y0 : Half
  /-- X1 (R36) -/
  x1 : Half
  /-- Y1 (R36) -/
  y1 : Half
  /-- COLOR (R37) -/
  color : Half
  /-- PTR (R38) -/
  ptr : Word
  /-- LEN (R38) -/
  len : Word
  /-- ORIENT (R39) -/
  orient : BitVec 2
  /-- INV (R39) -/
  inv : Bool
  /-- CUR (R40) -/
  cur : Word
  /-- REM (R40) -/
  rem : Word
  /-- PAT[0..31] (R41) -/
  pat : Vector Byte 32
  /-- DC (R42); none: not driven -/
  dc : Option Level
  /-- RST, the level the block drives on the hard reset line (R43); none: not driven -/
  rst : Option Bool
  /-- RESP (R45) -/
  resp : Option Status
  /-- FAULT (R46) -/
  fault : Option FaultCode
  /-- TRACE (R49), oldest event first -/
  trace : List Event
  /-- the outstanding call (R140, R314) -/
  pending : Option Pending
  /-- the TRANSPORT's answers not yet taken (R314); on the empty list a call is held until a move of `host` gives one -/
  answers : List Answer
  /-- how many waits the DELAY is ready to return from (R314); at 0 a wait is held until a move of `host` returns it -/
  delayReturns : Nat
  /-- the request port (R101): a descriptor presented and not yet taken -/
  port : Option Descriptor
  /-- the outside world's coming moves (R30) -/
  host : List HostMove
  /-- the responses the HOST has received since reset (R267, R313), oldest first -/
  responses : List Status
  /-- the requests taken from the port since reset, oldest first (R121, R313): the record a run's end is read from
  (entry 21) -/
  requests : List Descriptor
  /-- host memory (R70) in canonical form: addresses rising, no byte listed that equals `memDefault` -/
  mem : List Host.Cell
  /-- how often the free value `Config.curPastTop` was drawn (entry 16) -/
  freeDraws : Nat
  deriving DecidableEq, Repr

/-- Why a step stops (no next state). -/
inductive Fault where
  /-- FAULT holds a contract fault, so the block takes no step and accepts no request (R264). Raised by the step where the
  outside world has no move left, and by the meaning of every instruction in such a state. Safe: the block takes no step
  either. -/
  | stopped (code : FaultCode)
  /-- A wire command was to run while BUSY = 0: the ENGINE takes a step only while BUSY = 1 (R140). Raised by the meanings
  of the wire commands; no step runs one there. Safe. -/
  | engineIdle
  /-- A wire command was to run while a call is outstanding: the ENGINE is held (R140, R314). Raised by the meanings of the
  wire commands; no step runs one there. Safe. -/
  | engineHeld
  /-- BUSY = 1 and the micro-program has nothing at SEQ, or OP is no request. Raised by the step; no run reaches it (R34).
  Safe. -/
  | noMicroOp
  /-- A chunk would read past the top of host memory, at 2^32 or above (R70, R72). Raised by streamChunk; the check of R77
  keeps every run from it. Safe. -/
  | hostAddress
  deriving DecidableEq, Repr

/-- Why the machine gives no meaning. -/
inductive Refusal where
  /-- An instruction that has no meaning yet. Raised by `exec`; no arm uses it now. Safe. -/
  | notModelled (mnemonic : String)
  /-- The configuration is refused, so no run of the block exists for it (R277). Raised by the step. Safe. -/
  | configRefused
  deriving DecidableEq, Repr

/-- The machine right after reset (R300), in the reference configuration. The registers R300 leaves unspecified hold 0
(DESIGN CHOICE, entry 1, unsafe); the outside world has no move, no answer and no request ready (entries 5, 6, 9, 13). -/
def State.reset : State :=
  { cfg := Config.reference
    lc := .off
    busy := false
    seq := 0
    op := 0
    x0 := 0
    y0 := 0
    x1 := 0
    y1 := 0
    color := 0
    ptr := 0
    len := 0
    orient := 0
    inv := false
    cur := 0
    rem := 0
    pat := Vector.replicate 32 0
    dc := none
    rst := none
    resp := none
    fault := none
    trace := []
    pending := none
    answers := []
    delayReturns := 0
    port := none
    host := []
    responses := []
    requests := []
    mem := []
    freeDraws := 0 }

end Sys2Proof.Machine
end

