-- ==== Sys2Proof/Machine/Flags.lean ====
section
/-! DEFINITION. The block has no condition flags (40_framer.md); this file holds what is computed from the status-like
registers instead: the numbers of the codes (R32, R120, R261, R262), the electrical level of DC (R107), the lifecycle
condition (R121), ACQ (R44), and the capability reads (R48, R216). -/

namespace Sys2Proof.Machine

/-- The number of an LC value (R32). -/
def lcNumber : Lc → Nat
  | .off => 0
  | .ready => 1
  | .initFailed => 2

/-- The number of a status (R261). -/
def statusNumber : Status → Nat
  | .success => 0
  | .errAcquire => 1
  | .errTransfer => 2

/-- The number of a contract fault code (R262). -/
def faultNumber : FaultCode → Nat
  | .reentrant => 1
  | .illegalRequest => 2
  | .notReady => 3
  | .badWindow => 4
  | .countOverflow => 5
  | .lengthMismatch => 6
  | .bufferWrap => 7

/-- The number of a panel variant (R120). -/
def tabColorNumber : TabColor → Nat
  | .greentab => 0
  | .redtab => 1
  | .blacktab => 2
  | .greentab144 => 3

/-- The electrical level of the select line, true for high (R107; PRESUMED by the spec, G5). No rule reads it. -/
def electricalHigh : Level → Bool
  | .cmd => false
  | .data => true

/-- The eight requests' OP values (R102). -/
inductive Op where
  | init
  | uninit
  | pixelDraw
  | rectDraw
  | bufferDraw
  | rotationSet
  | displayInvert
  | display
  deriving DecidableEq, Repr

/-- The OP value of a request (R102). -/
def opCode : Op → BitVec 4
  | .init => 1
  | .uninit => 2
  | .pixelDraw => 3
  | .rectDraw => 4
  | .bufferDraw => 5
  | .rotationSet => 6
  | .displayInvert => 7
  | .display => 8

/-- The request of an OP value; none for a reserved one (R102). -/
def opOfCode (c : BitVec 4) : Option Op :=
  match c.toNat with
  | 1 => some .init
  | 2 => some .uninit
  | 3 => some .pixelDraw
  | 4 => some .rectDraw
  | 5 => some .bufferDraw
  | 6 => some .rotationSet
  | 7 => some .displayInvert
  | 8 => some .display
  | _ => none

/-- lifecycle_ok(op, LC) (R121). -/
def lifecycleOk : Op → Lc → Bool
  | .init, lc => lc == .off
  | .uninit, lc => lc == .ready || lc == .initFailed
  | .pixelDraw, lc => lc == .ready
  | .rectDraw, lc => lc == .ready
  | .bufferDraw, lc => lc == .ready
  | .rotationSet, lc => lc == .ready
  | .displayInvert, lc => lc == .ready
  | .display, _ => true

/-- ACQ, "transport held" (R44): LC is not OFF, or an INIT is running whose T.acquire answered `ok` (its SEQ is past 0). -/
def acq (s : State) : Bool :=
  s.lc != .off || (s.busy && s.op == opCode .init && 0 < s.seq)

/-- CAP_W (R48, R216): a capability read is valid in every state and changes nothing. -/
def capW (s : State) : Nat := s.cfg.panelW

/-- CAP_H (R48, R216). -/
def capH (s : State) : Nat := s.cfg.panelH

end Sys2Proof.Machine
end

