-- ==== Sys2Proof/Machine/Operands.lean ====
section
/-! DEFINITION. The operands of the micro-operations: byte order (R74, R110, R114), the fill pattern (R172), the MADCTL
lookup (R113), the window derivation and its checks (R170), and the layouts the spec gives for information (R111, R112,
R114, R115). -/

namespace Sys2Proof.Machine

/-- hi(v) = v[15:8] (R16). -/
def hi (v : Half) : Byte := v.extractLsb' 8 8

/-- lo(v) = v[7:0] (R16). -/
def lo (v : Half) : Byte := v.extractLsb' 0 8

/-- A 16-bit value as it is sent, most significant byte first (R74, R114). -/
def msbFirst (v : Half) : List Byte := [hi v, lo v]

/-- The first n bytes of a fill: hi(c), lo(c) repeated (R172). -/
def fillBytes (c : Half) : Nat → List Byte
  | 0 => []
  | 1 => [hi c]
  | n + 2 => hi c :: lo c :: fillBytes c n

theorem length_fillBytes (c : Half) (n : Nat) : (fillBytes c n).length = n := by
  induction n using fillBytes.induct with
  | case1 => rfl
  | case2 => rfl
  | case3 n ih => simp [fillBytes, ih]

/-- PAT for a colour: PAT[2i] = hi(c), PAT[2i+1] = lo(c) (R41, R172). -/
def fillPattern (c : Half) : Vector Byte 32 := ⟨(fillBytes c 32).toArray, length_fillBytes c 32⟩

/-- MADCTL_ROT(ORIENT, TAB_COLOR) (R113): the RGB column for BLACKTAB, the BGR column for every other variant. -/
def madctlRot (cfg : Config) (orient : BitVec 2) : Byte :=
  match decide (cfg.tabColor = .blacktab), orient.toNat with
  | true, 0 => cfg.madctlRot.rgb0
  | true, 1 => cfg.madctlRot.rgb90
  | true, 2 => cfg.madctlRot.rgb180
  | true, _ => cfg.madctlRot.rgb270
  | false, 0 => cfg.madctlRot.bgr0
  | false, 1 => cfg.madctlRot.bgr90
  | false, 2 => cfg.madctlRot.bgr180
  | false, _ => cfg.madctlRot.bgr270

/-- The COLMOD data byte (R111): 16 bits a pixel. -/
def colmodByte : Byte := 0x55

/-- The MADCTL data byte of INIT (R112, R202). -/
def madctlInitByte : Byte := 0x00

/-! ## Window derivation (R170) -/

/-- total = 2 * W * H, exact (R170). -/
def totalBytes (w h : Half) : Nat := 2 * w.toNat * h.toNat

/-- X + W - 1 (or Y + H - 1), exact (R170); meant for a nonzero extent. -/
def corner (start extent : Half) : Nat := start.toNat + extent.toNat - 1

/-- The F_BAD_WINDOW checks of R170, the zero test first (R263). -/
def checkWindow (x y w h : Half) : Option FaultCode :=
  if w = 0 ∨ h = 0 then some .badWindow
  else if 0xFFFF < corner x w ∨ 0xFFFF < corner y h then some .badWindow
  else none

/-- RECT_DRAW's operand checks, in the order of R263. -/
def checkRect (x y w h : Half) : Option FaultCode :=
  match checkWindow x y w h with
  | some c => some c
  | none => if 2 ^ 32 ≤ totalBytes w h then some .countOverflow else none

/-- BUFFER_DRAW's operand checks, in the order of R263. -/
def checkBuffer (cfg : Config) (x y w h : Half) (ptr len : Word) : Option FaultCode :=
  match checkWindow x y w h with
  | some c => some c
  | none =>
    if cfg.lengthCheck = .fault ∧ len.toNat ≠ totalBytes w h then some .lengthMismatch
    else if 2 ^ 32 < ptr.toNat + len.toNat then some .bufferWrap
    else none

/-! ## Layouts the spec gives for information -/

/-- The MADCTL bits of R112 (PRESUMED by the spec, G8). No rule reads them. -/
def madctlMY (b : Byte) : Bool := b.getLsbD 7
def madctlMX (b : Byte) : Bool := b.getLsbD 6
def madctlMV (b : Byte) : Bool := b.getLsbD 5
def madctlML (b : Byte) : Bool := b.getLsbD 4
def madctlBGR (b : Byte) : Bool := b.getLsbD 3
def madctlMH (b : Byte) : Bool := b.getLsbD 2

/-- The COLMOD fields of R111 (PRESUMED by the spec, G7). -/
def colmodInterface (b : Byte) : BitVec 3 := b.extractLsb' 4 3
def colmodPixel (b : Byte) : BitVec 3 := b.extractLsb' 0 3

/-- The colour fields of R114 (PRESUMED by the spec, G10). The block reads none of them. -/
def rgbRed (c : Half) : BitVec 5 := c.extractLsb' 11 5
def rgbGreen (c : Half) : BitVec 6 := c.extractLsb' 5 6
def rgbBlue (c : Half) : BitVec 5 := c.extractLsb' 0 5

/-- Column and row of pixel k of a stream in the window (x0, y0, x1, _), row-major (R115). -/
def pixelColumn (x0 x1 k : Nat) : Nat := x0 + k % (x1 - x0 + 1)
def pixelRow (x0 y0 x1 k : Nat) : Nat := y0 + k / (x1 - x0 + 1)

end Sys2Proof.Machine
end

