-- ==== Sys2Proof/WellFormed.lean ====
section
/-! DEFINITION. The checks of form: of a request descriptor (R104, 30_encoding.md) and of a configuration (R277,
60_exceptions.md). An `Instr` needs no check of its own: each operand's type has exactly its field's width (R105). -/

namespace Sys2Proof

/-- w0[7:4] and w0[15:11] are reserved and must be 0 (R104): the mask 0xF8F0. -/
def Descriptor.reservedZero (d : Descriptor) : Bool := d.w0 &&& 0xF8F0 == 0

/-- w0[3:0] is one of the eight OP values 0x1 to 0x8 (R102). -/
def Descriptor.opDefined (d : Descriptor) : Bool :=
  1 ≤ d.w0.toNat % 16 && d.w0.toNat % 16 ≤ 8

/-- A legal descriptor: outside the reserved space of R104. -/
def Descriptor.wf (d : Descriptor) : Bool := d.reservedZero && d.opDefined

/-- The constraint of R6: CHUNK_MAX >= 32. The other constraints of R277 hold of every `Config` by its types. -/
def Config.wf (c : Config) : Bool := 32 ≤ c.chunkMax

/-- A configuration as numbers, before R277's check. TAB_COLOR is numbered as R120 says. The numbers of the two
policies (0 and 1, in the order R11 and R12 name them) are a DESIGN CHOICE (entry 23, safe). -/
structure RawConfig where
  tabColor : Nat
  chunkMax : Nat
  panelW : Nat
  panelH : Nat
  initCol0 : Nat
  initCol1 : Nat
  initRow0 : Nat
  initRow1 : Nat
  /-- MADCTL_ROT: the BLACKTAB column, then the other variants' column, each in the order 0°, 90°, 180°, 270°. -/
  madctlRot : List Nat
  initErrorPolicy : Nat
  lengthCheck : Nat
  spiFormat : SpiFormat
  pins : Pins
  deriving DecidableEq, Repr

/-- TAB_COLOR from its number (R120); none outside the four values (R277). -/
def RawConfig.tabColor? : Nat → Option TabColor
  | 0 => some .greentab
  | 1 => some .redtab
  | 2 => some .blacktab
  | 3 => some .greentab144
  | _ => none

/-- INIT_ERROR_POLICY from its number; none outside the two values (R277). -/
def RawConfig.initErrorPolicy? : Nat → Option InitErrorPolicy
  | 0 => some .abort
  | 1 => some .ignore
  | _ => none

/-- LENGTH_CHECK from its number; none outside the two values (R277). -/
def RawConfig.lengthCheck? : Nat → Option LengthCheck
  | 0 => some .fault
  | 1 => some .unchecked
  | _ => none

/-- A u16 from a number; none where it is not one (R277). -/
def RawConfig.half? (n : Nat) : Option Half :=
  if n < 65536 then some (BitVec.ofNat 16 n) else none

/-- MADCTL_ROT from its eight entries; none where an entry is not a u8 (R277). -/
def RawConfig.madctlRot? : List Nat → Option MadctlRot
  | [a, b, c, d, e, f, g, h] =>
    if a < 256 ∧ b < 256 ∧ c < 256 ∧ d < 256 ∧ e < 256 ∧ f < 256 ∧ g < 256 ∧ h < 256 then
      some
        { rgb0 := BitVec.ofNat 8 a, rgb90 := BitVec.ofNat 8 b, rgb180 := BitVec.ofNat 8 c, rgb270 := BitVec.ofNat 8 d
          bgr0 := BitVec.ofNat 8 e, bgr90 := BitVec.ofNat 8 f, bgr180 := BitVec.ofNat 8 g, bgr270 := BitVec.ofNat 8 h }
    else none
  | _ => none

/-- R277: the configuration, or none where it is refused. -/
def RawConfig.toConfig (r : RawConfig) : Option Config := do
  let tab ← RawConfig.tabColor? r.tabColor
  let c0 ← RawConfig.half? r.initCol0
  let c1 ← RawConfig.half? r.initCol1
  let r0 ← RawConfig.half? r.initRow0
  let r1 ← RawConfig.half? r.initRow1
  let rot ← RawConfig.madctlRot? r.madctlRot
  let policy ← RawConfig.initErrorPolicy? r.initErrorPolicy
  let check ← RawConfig.lengthCheck? r.lengthCheck
  let cfg : Config :=
    { tabColor := tab, chunkMax := r.chunkMax, panelW := r.panelW, panelH := r.panelH
      initCol0 := c0, initCol1 := c1, initRow0 := r0, initRow1 := r1, madctlRot := rot
      initErrorPolicy := policy, lengthCheck := check, spiFormat := r.spiFormat, pins := r.pins }
  if cfg.wf then some cfg else none

end Sys2Proof
end

