-- ==== Sys2Proof/Machine/Ops.lean ====
section
/-! DEFINITION. The shared operations: host memory (20_memory.md), events and the select line, taking a contract fault
(`raise`, R264), the abort and the response beside it (R265, R267), reset (R300), and acceptance (R121). -/

namespace Sys2Proof.Machine

/-- What every meaning answers. -/
abbrev Result := Host.Outcome State Fault Refusal

/-! ## Host memory -/

/-- What a byte of host memory that nothing has written reads as. DESIGN CHOICE 0x00 (entry 4): the spec gives host memory
no contents. Unsafe for a claim that rests on the value. -/
def memDefault : Byte := 0

/-- Host memory as a list of cells (R70). -/
abbrev Memory := List Host.Cell

/-- The byte at an address (R72). -/
def Memory.read : Memory → Nat → Byte
  | [], _ => memDefault
  | (a, b) :: rest, addr => if addr = a then b else Memory.read rest addr

/-- MemRead(addr+0, 1), ..., MemRead(addr+n-1, 1), ascending (R72). -/
def Memory.readRange (m : Memory) (addr : Nat) : Nat → List Byte
  | 0 => []
  | n + 1 => Memory.read m addr :: Memory.readRange m (addr + 1) n

/-- A cell in front of a memory, left out where it holds what an unlisted address reads as. -/
def Memory.cons (a : Nat) (b : Byte) (m : Memory) : Memory := if b = memDefault then m else (a, b) :: m

/-- A write by the host (R82), keeping the canonical form. The block itself never writes host memory (R70). -/
def Memory.write : Memory → Nat → Byte → Memory
  | [], addr, b => Memory.cons addr b []
  | (a, c) :: rest, addr, b =>
    if addr < a then Memory.cons addr b ((a, c) :: rest)
    else if addr = a then Memory.cons a b rest
    else (a, c) :: Memory.write rest addr b

/-- Every address is at least `low`, below 2^32 and rises, and no cell holds `memDefault`. -/
def Memory.wfFrom (low : Nat) : Memory → Bool
  | [] => true
  | (a, b) :: rest => low ≤ a && a < 2 ^ Config.addrW && b != memDefault && Memory.wfFrom (a + 1) rest

/-- The canonical form. -/
def Memory.wf (m : Memory) : Bool := Memory.wfFrom 0 m

/-! ## Events, the select line, SEQ -/

/-- emit(e) (R17, R49). -/
def emit (e : Event) (s : State) : State := { s with trace := s.trace ++ [e] }

/-- DC <- l; emit(Dc(l)) (R141 to R143, R145). -/
def driveDc (l : Level) (s : State) : State := emit (.dc l) { s with dc := some l }

/-- SEQ <- SEQ + 1 (R34). -/
def advance (s : State) : State := { s with seq := s.seq + 1 }

/-- LC <- v (R32). -/
def setLc (v : Lc) (s : State) : State := { s with lc := v }

/-! ## Taking a fault, aborting, responding, reset -/

/-- raise Fault(code) (R264): FAULT <- code if FAULT = none, and nothing else. -/
def raise (code : FaultCode) (s : State) : State :=
  { s with
    fault :=
      match s.fault with
      | none => some code
      | some c => some c }

/-- respond(status) (R267): RESP <- status, BUSY <- 0, and the HOST receives the status. SEQ keeps its value. -/
def respond (st : Status) (s : State) : State :=
  { s with resp := some st, busy := false, responses := s.responses ++ [st] }

/-- Does the running request belong to the given OP? -/
def running (o : Op) (s : State) : Bool := s.op == opCode o

/-- abort(ERR_TRANSFER) (R265): LC <- INIT_FAILED if OP = INIT, then respond. -/
def abort (s : State) : State :=
  respond .errTransfer (if running .init s then setLc .initFailed s else s)

/-- transfer_failed() (R151): in INIT under IGNORE the sequence goes on; everywhere else the request aborts. -/
def transferFailed (s : State) : State :=
  if running .init s && decide (s.cfg.initErrorPolicy = .ignore) then advance s else abort s

/-- Reset of the block (R300, R301): its registers take their reset values and TRACE is empty; the outstanding call, the
presented request and the record of requests and responses are gone, since a new run begins; configuration, host memory,
the coming answers and the coming moves stay (entry 27). -/
def resetBlock (s : State) : State :=
  { State.reset with
    cfg := s.cfg
    answers := s.answers
    delayReturns := s.delayReturns
    host := s.host
    mem := s.mem
    freeDraws := s.freeDraws }

/-- Is the configuration one the block runs under (R277)? -/
def configOk (s : State) : Bool := s.cfg.wf

/-! ## Acceptance (R121) -/

/-- BUSY <- 1; SEQ <- 0; OP <- op (R121). -/
def beginRequest (o : Op) (s : State) : State := { s with busy := true, seq := 0, op := opCode o }

/-- The window corners latched by a drawing request (R36, R170). -/
def latchWindow (x0 y0 x1 y1 : Half) (s : State) : State := { s with x0 := x0, y0 := y0, x1 := x1, y1 := y1 }

/-- Acceptance of a decoded request (R121, R263): the stopped block takes no step; BUSY, then the lifecycle, then the
operand checks fault; otherwise the request begins and its operands are latched. -/
def accept (o : Op) (check : Option FaultCode) (latch : State → State) (s : State) : Result :=
  match s.fault with
  | some c => .fault (.stopped c)
  | none =>
    if s.busy then .next (raise .reentrant s)
    else if lifecycleOk o s.lc then
      match check with
      | some c => .next (raise c s)
      | none => .next (latch (beginRequest o s))
    else .next (raise .notReady s)

end Sys2Proof.Machine
end

