-- ==== Sys2Proof/Machine/Control.lean ====
section
/-! DEFINITION. The meanings of the requests that do not draw (43_sequencer.md): acceptance (R121) and what it latches. -/

namespace Sys2Proof.Machine

/-- INIT (R200): no operands. -/
def execInit (s : State) : Result := accept .init none id s

/-- UNINIT (R212): no operands. -/
def execUninit (s : State) : Result := accept .uninit none id s

/-- What ROTATION_SET latches (R39, R121). -/
def latchOrient (orient : BitVec 2) (s : State) : State := { s with orient := orient }

/-- ROTATION_SET o (R213). -/
def execRotationSet (orient : BitVec 2) (s : State) : Result := accept .rotationSet none (latchOrient orient) s

/-- What DISPLAY_INVERT latches (R39, R121). -/
def latchInv (inv : Bool) (s : State) : State := { s with inv := inv }

/-- DISPLAY_INVERT b (R214). -/
def execDisplayInvert (inv : Bool) (s : State) : Result := accept .displayInvert none (latchInv inv) s

/-- DISPLAY (R215): no operands, any LC. -/
def execDisplay (s : State) : Result := accept .display none id s

end Sys2Proof.Machine
end

