-- ==== Sys2Proof/Machine/Draw.lean ====
section
/-! DEFINITION. The drawing requests' meanings (42_transfer.md): acceptance (R121, R170) and what it latches. -/

namespace Sys2Proof.Machine

/-- What PIXEL_DRAW latches (R177). -/
def latchPixel (x y color : Half) (s : State) : State :=
  { latchWindow x y x y s with color := color, rem := 2 }

/-- What RECT_DRAW latches (R171, R172). -/
def latchRect (x y w h color : Half) (s : State) : State :=
  { latchWindow x y (BitVec.ofNat 16 (corner x w)) (BitVec.ofNat 16 (corner y h)) s with
    color := color
    pat := fillPattern color
    rem := BitVec.ofNat 32 (totalBytes w h) }

/-- What BUFFER_DRAW latches (R174). -/
def latchBuffer (x y w h : Half) (ptr len : Word) (s : State) : State :=
  { latchWindow x y (BitVec.ofNat 16 (corner x w)) (BitVec.ofNat 16 (corner y h)) s with
    ptr := ptr
    len := len
    cur := ptr
    rem := len }

/-- PIXEL_DRAW x, y, color (R177): its window always passes R170. -/
def execPixelDraw (x y color : Half) (s : State) : Result := accept .pixelDraw none (latchPixel x y color) s

/-- RECT_DRAW x, y, w, h, color (R171). -/
def execRectDraw (x y w h color : Half) (s : State) : Result :=
  accept .rectDraw (checkRect x y w h) (latchRect x y w h color) s

/-- BUFFER_DRAW x, y, w, h, ptr, len (R174). -/
def execBufferDraw (x y w h : Half) (ptr len : Word) (s : State) : Result :=
  accept .bufferDraw (checkBuffer s.cfg x y w h ptr len) (latchBuffer x y w h ptr len) s

end Sys2Proof.Machine
end

