-- ==== Sys2Proof/Decode.lean ====
section
/-! DEFINITION. Decoding and encoding (30_encoding.md): request descriptors (R101 to R105), command bytes (R108), the
request notation (R117), and the host's numbering of an instruction's bits (`decodeTableWord`). -/

namespace Sys2Proof

/-- Why a code is no instruction. At the request port every one of these is F_ILLEGAL_REQUEST (R104, R121). -/
inductive DecodeError where
  /-- w0[7:4] or w0[15:11] is not 0 (R104) -/
  | reservedBits
  /-- OP is 0x0 or 0x9 to 0xF (R102) -/
  | reservedOp (op : BitVec 4)
  /-- a descriptor that is not exactly five words (R119) -/
  | wrongLength (n : Nat)
  /-- a command byte outside the eleven of R108 (R116) -/
  | notACommand (b : Byte)
  deriving DecidableEq, Repr

/-! ## Fields -/

/-- v[lo+n-1 : lo] (R16). -/
def bits (n lo : Nat) (v : Word) : BitVec n := v.extractLsb' lo n

/-- OP (R101) -/
def Descriptor.op (d : Descriptor) : BitVec 4 := bits 4 0 d.w0
/-- The reserved bits w0[7:4] (R104) -/
def Descriptor.rsv0 (d : Descriptor) : BitVec 4 := bits 4 4 d.w0
/-- ORIENT (R101) -/
def Descriptor.orient (d : Descriptor) : BitVec 2 := bits 2 8 d.w0
/-- INV (R101) -/
def Descriptor.inv (d : Descriptor) : Bool := d.w0.getLsbD 10
/-- The reserved bits w0[15:11] (R104) -/
def Descriptor.rsv1 (d : Descriptor) : BitVec 5 := bits 5 11 d.w0
/-- COLOR (R101) -/
def Descriptor.color (d : Descriptor) : Half := bits 16 16 d.w0
/-- X (R101) -/
def Descriptor.x (d : Descriptor) : Half := bits 16 0 d.w1
/-- Y (R101) -/
def Descriptor.y (d : Descriptor) : Half := bits 16 16 d.w1
/-- W (R101) -/
def Descriptor.w (d : Descriptor) : Half := bits 16 0 d.w2
/-- H (R101) -/
def Descriptor.h (d : Descriptor) : Half := bits 16 16 d.w2

/-! ## Decoding -/

/-- A request descriptor's instruction (R102 to R105, R121). A field the request does not use is not looked at (R103). -/
def decodeRequest (d : Descriptor) : Except DecodeError Instr :=
  if d.rsv0 ≠ 0 ∨ d.rsv1 ≠ 0 then .error .reservedBits
  else
    match d.op.toNat with
    | 1 => .ok .init
    | 2 => .ok .uninit
    | 3 => .ok (.pixelDraw d.x d.y d.color)
    | 4 => .ok (.rectDraw d.x d.y d.w d.h d.color)
    | 5 => .ok (.bufferDraw d.x d.y d.w d.h d.w3 d.w4)
    | 6 => .ok (.rotationSet d.orient)
    | 7 => .ok (.displayInvert d.inv)
    | 8 => .ok .display
    | _ => .error (.reservedOp d.op)

/-- A command byte's wire command (R108; the byte values are PRESUMED by the spec from general knowledge, G6, entry 17,
unsafe if the controller wants others). -/
def decodeWire (b : Byte) : Except DecodeError Instr :=
  match b.toNat with
  | 0x01 => .ok .swreset
  | 0x11 => .ok .slpout
  | 0x13 => .ok .noron
  | 0x20 => .ok .invoff
  | 0x21 => .ok .invon
  | 0x29 => .ok .dispon
  | 0x2A => .ok .caset
  | 0x2B => .ok .raset
  | 0x2C => .ok .ramwr
  | 0x36 => .ok .madctl
  | 0x3A => .ok .colmod
  | _ => .error (.notACommand b)

/-- Any code's instruction, or the reason there is none. -/
def decode : Code → Except DecodeError Instr
  | .request d => decodeRequest d
  | .wire b => decodeWire b

/-- A list of words as a descriptor: exactly five (R101, R119). -/
def descriptorOfWords : List Word → Except DecodeError Descriptor
  | [w0, w1, w2, w3, w4] => .ok { w0 := w0, w1 := w1, w2 := w2, w3 := w3, w4 := w4 }
  | ws => .error (.wrongLength ws.length)

/-- Any list of words delivered on the request port, decoded. -/
def decodeWords (ws : List Word) : Except DecodeError Instr :=
  match descriptorOfWords ws with
  | .ok d => decodeRequest d
  | .error e => .error e

/-! ## Encoding -/

/-- w0 from its fields (R101): COLOR at bit 16, INV at bit 10, ORIENT at bit 8, OP at bit 0, the reserved bits 0. -/
def word0 (color : Half) (inv : Bool) (orient : BitVec 2) (op : BitVec 4) : Word :=
  BitVec.ofNat 32 (color.toNat * 2 ^ 16 + inv.toNat * 2 ^ 10 + orient.toNat * 2 ^ 8 + op.toNat)

/-- A word of two u16 fields, at bits 16 and 0 (R101). -/
def word2 (high low : Half) : Word := BitVec.ofNat 32 (high.toNat * 2 ^ 16 + low.toNat)

/-- CMD_CODE (R108): the byte of each wire command; 0 for a request, which has none. -/
def cmdCode : Instr → Byte
  | .swreset => 0x01
  | .slpout => 0x11
  | .noron => 0x13
  | .invoff => 0x20
  | .invon => 0x21
  | .dispon => 0x29
  | .caset => 0x2A
  | .raset => 0x2B
  | .ramwr => 0x2C
  | .madctl => 0x36
  | .colmod => 0x3A
  | .init => 0
  | .uninit => 0
  | .pixelDraw _ _ _ => 0
  | .rectDraw _ _ _ _ _ => 0
  | .bufferDraw _ _ _ _ _ _ => 0
  | .rotationSet _ => 0
  | .displayInvert _ => 0
  | .display => 0

/-- The code of an instruction; the fields it does not use are 0 (R117). -/
def encode : Instr → Code
  | .init => .request { w0 := word0 0 false 0 1, w1 := 0, w2 := 0, w3 := 0, w4 := 0 }
  | .uninit => .request { w0 := word0 0 false 0 2, w1 := 0, w2 := 0, w3 := 0, w4 := 0 }
  | .pixelDraw x y color => .request { w0 := word0 color false 0 3, w1 := word2 y x, w2 := 0, w3 := 0, w4 := 0 }
  | .rectDraw x y w h color =>
    .request { w0 := word0 color false 0 4, w1 := word2 y x, w2 := word2 h w, w3 := 0, w4 := 0 }
  | .bufferDraw x y w h ptr len =>
    .request { w0 := word0 0 false 0 5, w1 := word2 y x, w2 := word2 h w, w3 := ptr, w4 := len }
  | .rotationSet orient => .request { w0 := word0 0 false orient 6, w1 := 0, w2 := 0, w3 := 0, w4 := 0 }
  | .displayInvert inv => .request { w0 := word0 0 inv 0 7, w1 := 0, w2 := 0, w3 := 0, w4 := 0 }
  | .display => .request { w0 := word0 0 false 0 8, w1 := 0, w2 := 0, w3 := 0, w4 := 0 }
  | .swreset => .wire (cmdCode .swreset)
  | .slpout => .wire (cmdCode .slpout)
  | .noron => .wire (cmdCode .noron)
  | .invoff => .wire (cmdCode .invoff)
  | .invon => .wire (cmdCode .invon)
  | .dispon => .wire (cmdCode .dispon)
  | .caset => .wire (cmdCode .caset)
  | .raset => .wire (cmdCode .raset)
  | .ramwr => .wire (cmdCode .ramwr)
  | .madctl => .wire (cmdCode .madctl)
  | .colmod => .wire (cmdCode .colmod)

/-- What follows a wire command's byte (R109): how many parameter data bytes, none where it is the pixel stream. -/
def wireParams : Instr → Option Nat
  | .caset => some 4
  | .raset => some 4
  | .madctl => some 1
  | .colmod => some 1
  | .ramwr => none
  | .swreset => some 0
  | .slpout => some 0
  | .noron => some 0
  | .invoff => some 0
  | .invon => some 0
  | .dispon => some 0
  | .init => some 0
  | .uninit => some 0
  | .pixelDraw _ _ _ => some 0
  | .rectDraw _ _ _ _ _ => some 0
  | .bufferDraw _ _ _ _ _ _ => some 0
  | .rotationSet _ => some 0
  | .displayInvert _ => some 0
  | .display => some 0

/-! ## The request notation (R117) -/

/-- A u16 operand of the notation; none where the number does not fit (R16). -/
def asmHalf (n : Nat) : Option Half := if n < 65536 then some (BitVec.ofNat 16 n) else none

/-- A u32 operand of the notation. -/
def asmWord (n : Nat) : Option Word := if n < 4294967296 then some (BitVec.ofNat 32 n) else none

/-- `rotate o`: 0..3, or degrees 0, 90, 180 or 270 divided by 90 (R117). -/
def asmOrient : Nat → Option (BitVec 2)
  | 0 => some 0
  | 1 => some 1
  | 2 => some 2
  | 3 => some 3
  | 90 => some 1
  | 180 => some 2
  | 270 => some 3
  | _ => none

/-- `invert b`: 0 or 1 (R117). -/
def asmInv : Nat → Option Bool
  | 0 => some false
  | 1 => some true
  | _ => none

/-- A line of R117's notation, cut into its word and its numbers; none where it is no line of it. -/
def assemble (name : String) (args : List Nat) : Option Instr :=
  if name = "init" then (if args = [] then some .init else none)
  else if name = "uninit" then (if args = [] then some .uninit else none)
  else if name = "display" then (if args = [] then some .display else none)
  else if name = "pixel" then
    match args with
    | [x, y, c] => do return .pixelDraw (← asmHalf x) (← asmHalf y) (← asmHalf c)
    | _ => none
  else if name = "rect" then
    match args with
    | [x, y, w, h, c] =>
      do return .rectDraw (← asmHalf x) (← asmHalf y) (← asmHalf w) (← asmHalf h) (← asmHalf c)
    | _ => none
  else if name = "buffer" then
    match args with
    | [x, y, w, h, p, l] =>
      do return .bufferDraw (← asmHalf x) (← asmHalf y) (← asmHalf w) (← asmHalf h) (← asmWord p) (← asmWord l)
    | _ => none
  else if name = "rotate" then
    match args with
    | [o] => do return .rotationSet (← asmOrient o)
    | _ => none
  else if name = "invert" then
    match args with
    | [b] => do return .displayInvert (← asmInv b)
    | _ => none
  else none

/-- A digit's value (R117: decimal or hexadecimal; the letters in either case). -/
def digitValue (c : Char) : Option Nat :=
  if '0' ≤ c ∧ c ≤ '9' then some (c.toNat - 48)
  else if 'a' ≤ c ∧ c ≤ 'f' then some (c.toNat - 87)
  else if 'A' ≤ c ∧ c ≤ 'F' then some (c.toNat - 55)
  else none

/-- Digits of a base, after the number read so far. -/
def readDigits (base acc : Nat) : List Char → Option Nat
  | [] => some acc
  | c :: cs =>
    match digitValue c with
    | some d => if d < base then readDigits base (base * acc + d) cs else none
    | none => none

/-- A number: decimal, or hexadecimal after `0x` (R117). -/
def readNumber : List Char → Option Nat
  | [] => none
  | '0' :: 'x' :: c :: cs => readDigits 16 0 (c :: cs)
  | cs => readDigits 10 0 cs

/-- The pieces of a list of characters between commas. -/
def splitCommas : List Char → List (List Char)
  | [] => [[]]
  | c :: cs =>
    match splitCommas cs with
    | [] => [[c]]
    | piece :: rest => if c = ',' then [] :: piece :: rest else (c :: piece) :: rest

/-- Without the spaces at both ends. -/
def trimSpaces (cs : List Char) : List Char :=
  ((cs.dropWhile (· = ' ')).reverse.dropWhile (· = ' ')).reverse

/-- The operands after a line's word. -/
def readOperands (cs : List Char) : Option (List Nat) :=
  if cs = [] then some [] else (splitCommas cs).mapM fun piece => readNumber (trimSpaces piece)

/-- One line of R117's notation, as characters: a word, then its operands with commas between them; spaces around each
are allowed (entry 29). None where it is no line of it. -/
def assembleLine (line : List Char) : Option Instr :=
  match readOperands (trimSpaces ((trimSpaces line).dropWhile (· ≠ ' '))) with
  | some args => assemble (String.ofList ((trimSpaces line).takeWhile (· ≠ ' '))) args
  | none => none

/-! ## The host's numbering -/

/-- The descriptor whose bits, w0 lowest, are the number w. -/
def descriptorOfNat (w : Nat) : Descriptor :=
  { w0 := BitVec.ofNat 32 w
    w1 := BitVec.ofNat 32 (w / 2 ^ 32)
    w2 := BitVec.ofNat 32 (w / 2 ^ 64)
    w3 := BitVec.ofNat 32 (w / 2 ^ 96)
    w4 := BitVec.ofNat 32 (w / 2 ^ 128) }

/-- The code of an instruction of nbits bits: a table row of one byte is a wire command (WIRE_CMD), a wider row a request
(REQ), whose words above nbits are 0 (entry 12, DESIGN CHOICE, safe). -/
def codeOfTableWord (nbits w : Nat) : Code :=
  if nbits ≤ 8 then .wire (BitVec.ofNat 8 w) else .request (descriptorOfNat (w % 2 ^ nbits))

/-- What the decoder reads from the instruction whose bits are w, numbered as spec/opcode_table.json numbers them. -/
def decodeTableWord (nbits w : Nat) : Option Instr := (decode (codeOfTableWord nbits w)).toOption

end Sys2Proof
end

