-- ==== Sys2Proof/Machine/Framer.lean ====
section
/-! DEFINITION. The micro-operations (40_framer.md) and the calls they make of the TRANSPORT and the DELAY (R314). A
call is outstanding until it is answered; where the answer is at hand the call completes in the step that makes it
(entry 8). -/

namespace Sys2Proof.Machine

/-! ## What an answer does -/

/-- The rest of `acquire` once T.acquire has answered (R147, R201). -/
def acquireDone (r : Answer) (s : State) : State :=
  match r with
  | .ok => advance (emit (.acquire .ok) s)
  | .err => respond .errAcquire (emit (.acquire .err) s)

/-- The rest of writeCommand or writeData once T.xfer has answered (R141, R142). -/
def unitDone (l : Level) (b : Byte) (r : Answer) (s : State) : State :=
  match r with
  | .ok => advance (emit (.xfer l [b] .ok) s)
  | .err => transferFailed (emit (.xfer l [b] .err) s)

/-- CUR <- CUR + n (R144). Where the sum is 2^32, which no u32 holds, CUR is left the free value (entry 16). -/
def advanceCur (n : Nat) (s : State) : State :=
  if s.cur.toNat + n < 2 ^ 32 then { s with cur := BitVec.ofNat 32 (s.cur.toNat + n) }
  else { s with cur := Config.curPastTop s.freeDraws, freeDraws := s.freeDraws + 1 }

/-- REM <- REM - n (R144). -/
def takeRem (n : Nat) (s : State) : State := { s with rem := BitVec.ofNat 32 (s.rem.toNat - n) }

/-- CUR moves only for src = MEM (R144). -/
def advanceCurFor (src : Src) (n : Nat) (s : State) : State :=
  match src with
  | .pat => s
  | .pix => s
  | .mem => advanceCur n s

/-- SEQ moves past streamChunk only when REM = 0 (R34, R144). -/
def advanceIfDone (s : State) : State := if s.rem = 0 then advance s else s

/-- The rest of streamChunk once T.xfer has answered (R144). -/
def chunkDone (src : Src) (bs : List Byte) (r : Answer) (s : State) : State :=
  match r with
  | .ok => advanceIfDone (advanceCurFor src bs.length (takeRem bs.length (emit (.xfer .data bs .ok) s)))
  | .err => transferFailed (emit (.xfer .data bs .err) s)

/-- A step of the TRANSPORT or the DELAY (R314): the outstanding call takes the next answer. With no call or no answer
nothing changes: the ENGINE is held. -/
def settle (s : State) : State :=
  match s.pending with
  | none => s
  | some .acquire =>
    match s.answers with
    | [] => s
    | r :: rest => acquireDone r { s with pending := none, answers := rest }
  | some (.unit l b) =>
    match s.answers with
    | [] => s
    | r :: rest => unitDone l b r { s with pending := none, answers := rest }
  | some (.chunk src bs) =>
    match s.answers with
    | [] => s
    | r :: rest => chunkDone src bs r { s with pending := none, answers := rest }
  | some (.wait _) =>
    match s.delayReturns with
    | 0 => s
    | n + 1 => advance { s with pending := none, delayReturns := n }

/-- Make a call; it completes at once where its answer is at hand (entry 8). -/
def callOut (p : Pending) (s : State) : State := settle { s with pending := some p }

/-! ## The micro-operations -/

/-- writeCommand(b) (R141). -/
def writeCommand (b : Byte) (s : State) : State := callOut (.unit .cmd b) (driveDc .cmd s)

/-- writeData(b) (R142). -/
def writeData (b : Byte) (s : State) : State := callOut (.unit .data b) (driveDc .data s)

/-- streamBegin (R143). -/
def streamBegin (s : State) : State := advance (driveDc .data s)

/-- streamEnd (R145). -/
def streamEnd (s : State) : State := advance (driveDc .cmd s)

/-- wait(ms) (R146). -/
def waitMs (ms : Nat) (s : State) : State := callOut (.wait ms) (emit (.wait ms) s)

/-- acquire (R147). -/
def acquire (s : State) : State := callOut .acquire s

/-- release (R148): it always succeeds. -/
def release (s : State) : State := advance (emit .release s)

/-- cap(src) (R144). -/
def chunkCap (cfg : Config) : Src → Nat
  | .pat => Config.fillChunk
  | .pix => 2
  | .mem => cfg.chunkMax

/-- n = min(REM, cap(src)) (R144). -/
def chunkSize (src : Src) (s : State) : Nat := min s.rem.toNat (chunkCap s.cfg src)

/-- The n bytes of the next chunk (R144). -/
def chunkBytes (src : Src) (n : Nat) (s : State) : List Byte :=
  match src with
  | .pat => s.pat.toList.take n
  | .pix => (msbFirst s.color).take n
  | .mem => Memory.readRange s.mem s.cur.toNat n

/-- Would the next chunk read at 2^32 or above (R70, R72)? -/
def chunkPastTop (src : Src) (s : State) : Bool :=
  match src with
  | .pat => false
  | .pix => false
  | .mem => 2 ^ 32 < s.cur.toNat + chunkSize .mem s

/-- streamChunk(src) (R144). -/
def streamChunk (src : Src) (s : State) : Result :=
  if s.rem = 0 then .next (advance s)
  else if chunkPastTop src s then .fault .hostAddress
  else .next (callOut (.chunk src (chunkBytes src (chunkSize src s) s)) s)

/-- The ENGINE takes a step only while BUSY = 1 and FAULT = none, and is held while a call is outstanding (R140). -/
def engineStep (f : State → State) (s : State) : Result :=
  match s.fault with
  | some c => .fault (.stopped c)
  | none =>
    if s.busy then
      match s.pending with
      | none => .next (f s)
      | some _ => .fault .engineHeld
    else .fault .engineIdle

end Sys2Proof.Machine
end

