-- ==== Sys2Proof/Machine/Wire.lean ====
section
/-! DEFINITION. The wire commands' meanings (44_wire_commands.md): each is the micro-operation writeCommand of its byte
(R141), one step of the ENGINE. The waits and parameter bytes around it are micro-operations of the micro-program that
holds it. -/

namespace Sys2Proof.Machine

/-- SWRESET (R240). -/
def execSwreset (s : State) : Result := engineStep (writeCommand (cmdCode .swreset)) s

/-- SLPOUT (R241). -/
def execSlpout (s : State) : Result := engineStep (writeCommand (cmdCode .slpout)) s

/-- NORON (R242). -/
def execNoron (s : State) : Result := engineStep (writeCommand (cmdCode .noron)) s

/-- INVOFF (R243). -/
def execInvoff (s : State) : Result := engineStep (writeCommand (cmdCode .invoff)) s

/-- INVON (R244). -/
def execInvon (s : State) : Result := engineStep (writeCommand (cmdCode .invon)) s

/-- DISPON (R245). -/
def execDispon (s : State) : Result := engineStep (writeCommand (cmdCode .dispon)) s

/-- CASET (R246). The four parameter bytes are writeData micro-operations of their own (R109, R160, R202). -/
def execCaset (s : State) : Result := engineStep (writeCommand (cmdCode .caset)) s

/-- RASET (R247). The four parameter bytes are writeData micro-operations of their own (R109, R160, R202). -/
def execRaset (s : State) : Result := engineStep (writeCommand (cmdCode .raset)) s

/-- RAMWR (R248). The pixel stream follows (R109, R248). -/
def execRamwr (s : State) : Result := engineStep (writeCommand (cmdCode .ramwr)) s

/-- MADCTL (R249). Its parameter byte is a writeData micro-operation of its own (R109, R202, R213). -/
def execMadctl (s : State) : Result := engineStep (writeCommand (cmdCode .madctl)) s

/-- COLMOD (R250). Its parameter byte is a writeData micro-operation of its own (R109, R202). -/
def execColmod (s : State) : Result := engineStep (writeCommand (cmdCode .colmod)) s

end Sys2Proof.Machine
end

