-- ==== Sys2Proof/Machine/Dispatch.lean ====
section
/-! DEFINITION. One arm per instruction: each is one direct call of its meaning. -/

namespace Sys2Proof.Machine

def exec (i : Instr) (s : State) : Host.Outcome State Fault Refusal :=
  match i with
  | .init => Sys2Proof.Machine.execInit s
  | .uninit => Sys2Proof.Machine.execUninit s
  | .pixelDraw x y color => Sys2Proof.Machine.execPixelDraw x y color s
  | .rectDraw x y w h color => Sys2Proof.Machine.execRectDraw x y w h color s
  | .bufferDraw x y w h ptr len => Sys2Proof.Machine.execBufferDraw x y w h ptr len s
  | .rotationSet orient => Sys2Proof.Machine.execRotationSet orient s
  | .displayInvert inv => Sys2Proof.Machine.execDisplayInvert inv s
  | .display => Sys2Proof.Machine.execDisplay s
  | .swreset => Sys2Proof.Machine.execSwreset s
  | .slpout => Sys2Proof.Machine.execSlpout s
  | .noron => Sys2Proof.Machine.execNoron s
  | .invoff => Sys2Proof.Machine.execInvoff s
  | .invon => Sys2Proof.Machine.execInvon s
  | .dispon => Sys2Proof.Machine.execDispon s
  | .caset => Sys2Proof.Machine.execCaset s
  | .raset => Sys2Proof.Machine.execRaset s
  | .ramwr => Sys2Proof.Machine.execRamwr s
  | .madctl => Sys2Proof.Machine.execMadctl s
  | .colmod => Sys2Proof.Machine.execColmod s

end Sys2Proof.Machine
end

