-- ==== Sys2Proof/Machine/Sequencer.lean ====
section
/-! DEFINITION. The fixed micro-programs (R34): setWindow (R160), the drawing requests (R171, R174, R177), INIT (R202),
UNINIT (R212), ROTATION_SET (R213), DISPLAY_INVERT (R214) and DISPLAY (R215). -/

namespace Sys2Proof.Machine

/-- A micro-operation with its operands (R140). The list is closed. -/
inductive MicroOp where
  | writeCommand (b : Byte)
  | writeData (b : Byte)
  | streamBegin
  | streamChunk (src : Src)
  | streamEnd
  | wait (ms : Nat)
  | acquire
  | release
  /-- respond(SUCCESS); before it, LC takes the given value (R204, R212) -/
  | respond (lc : Option Lc)
  deriving DecidableEq, Repr

/-- The two data bytes of a 16-bit address parameter (R110). -/
def addressParams (start stop : Half) : List MicroOp :=
  [.writeData (hi start), .writeData (lo start), .writeData (hi stop), .writeData (lo stop)]

/-- setWindow(x0, y0, x1, y1) (R160): eleven micro-operations. -/
def setWindow (x0 y0 x1 y1 : Half) : List MicroOp :=
  [.writeCommand (cmdCode .caset)] ++ addressParams x0 x1 ++
  [.writeCommand (cmdCode .raset)] ++ addressParams y0 y1 ++
  [.writeCommand (cmdCode .ramwr)]

/-- A drawing request: setWindow, the stream between streamBegin and streamEnd, respond (R171, R174, R177). -/
def drawProgram (src : Src) (s : State) : List MicroOp :=
  setWindow s.x0 s.y0 s.x1 s.y1 ++ [.streamBegin, .streamChunk src, .streamEnd, .respond none]

/-- INIT (R202), SEQ 0 to 26. -/
def initProgram (cfg : Config) : List MicroOp :=
  [ .acquire
  , .writeCommand (cmdCode .swreset), .wait Config.tSwreset
  , .writeCommand (cmdCode .slpout), .wait Config.tSlpout
  , .writeCommand (cmdCode .colmod), .writeData colmodByte, .wait Config.tColmod
  , .writeCommand (cmdCode .madctl), .writeData madctlInitByte
  , .writeCommand (cmdCode .caset) ] ++ addressParams cfg.initCol0 cfg.initCol1 ++
  [ .writeCommand (cmdCode .raset) ] ++ addressParams cfg.initRow0 cfg.initRow1 ++
  [ .writeCommand (cmdCode .invon), .wait Config.tInvon
  , .writeCommand (cmdCode .noron), .wait Config.tNoron
  , .writeCommand (cmdCode .dispon), .wait Config.tDispon
  , .respond (some .ready) ]

/-- The micro-program of a request, its operands read from the registers. -/
def microProgram (o : Op) (s : State) : List MicroOp :=
  match o with
  | .init => initProgram s.cfg
  | .uninit => [.release, .respond (some .off)]
  | .pixelDraw => drawProgram .pix s
  | .rectDraw => drawProgram .pat s
  | .bufferDraw => drawProgram .mem s
  | .rotationSet => [.writeCommand (cmdCode .madctl), .writeData (madctlRot s.cfg s.orient), .respond none]
  | .displayInvert => [.writeCommand (if s.inv then cmdCode .invon else cmdCode .invoff), .respond none]
  | .display => [.respond none]

/-- The micro-operation at SEQ of the running request (R34, R140); none where there is none. -/
def microOp (s : State) : Option MicroOp :=
  match opOfCode s.op with
  | none => none
  | some o => (microProgram o s)[s.seq]?

/-- The end of a micro-program: LC <- its new value, if it has one, then respond(SUCCESS) (R204, R212). -/
def finish (lc : Option Lc) (s : State) : State :=
  match lc with
  | none => respond .success s
  | some v => respond .success (setLc v s)

/-- Where a micro-program holds each wire command: its request and SEQ (R202, R160, R214). For DISPLAY_INVERT the INV
register selects between INVON and INVOFF. None for a request. -/
def wireSite : Instr → Option (Op × Nat)
  | .swreset => some (.init, 1)
  | .slpout => some (.init, 3)
  | .colmod => some (.init, 5)
  | .madctl => some (.init, 8)
  | .caset => some (.init, 10)
  | .raset => some (.init, 15)
  | .invon => some (.init, 20)
  | .noron => some (.init, 22)
  | .dispon => some (.init, 24)
  | .invoff => some (.displayInvert, 0)
  | .ramwr => some (.pixelDraw, 10)
  | .init => none
  | .uninit => none
  | .pixelDraw _ _ _ => none
  | .rectDraw _ _ _ _ _ => none
  | .bufferDraw _ _ _ _ _ _ => none
  | .rotationSet _ => none
  | .displayInvert _ => none
  | .display => none

end Sys2Proof.Machine
end

