-- ==== Sys2Proof/Machine/Engine.lean ====
section
/-! DEFINITION. One step of each agent (R30): acceptance at the request port (R121), the ENGINE's micro-operation (R140),
the outside world's move, and the rule of which of them moves. Machine/Step.lean only calls `agentStep` and
`placeWord`. -/

namespace Sys2Proof.Machine

/-- The presented descriptor leaves the port and is recorded as a request of the run (R121, R313; entry 21). -/
def takePort (d : Descriptor) (s : State) : State := { s with port := none, requests := s.requests ++ [d] }

/-- A descriptor taken from the request port (R121): BUSY first, then the descriptor's form, then the request's own
meaning. -/
def acceptPort (d : Descriptor) (s : State) : Result :=
  if s.busy then .next (raise .reentrant s)
  else
    match decodeRequest d with
    | .error _ => .next (raise .illegalRequest s)
    | .ok i => exec i s

/-- The command byte of a micro-program, decoded and run as the wire command it is (R108, R141). -/
def runCommandByte (b : Byte) (s : State) : Result :=
  match decodeWire b with
  | .error _ => .fault .noMicroOp
  | .ok i => exec i s

/-- One micro-operation (R140). -/
def runMicroOp (m : MicroOp) (s : State) : Result :=
  match m with
  | .writeCommand b => runCommandByte b s
  | .writeData b => .next (writeData b s)
  | .streamBegin => .next (streamBegin s)
  | .streamChunk src => streamChunk src s
  | .streamEnd => .next (streamEnd s)
  | .wait ms => .next (waitMs ms s)
  | .acquire => .next (acquire s)
  | .release => .next (release s)
  | .respond lc => .next (finish lc s)

/-- The block's own step, with FAULT = none: an outstanding call takes its answer or holds the ENGINE (R314); otherwise a
busy ENGINE performs the micro-operation at SEQ (R140); otherwise the block waits (R302; entry 14). -/
def blockStep (s : State) : Result :=
  match s.pending with
  | some _ => .next (settle s)
  | none =>
    if s.busy then
      match microOp s with
      | none => .fault .noMicroOp
      | some m => runMicroOp m s
    else .next s

/-- What a move of the outside world does (R30, R82, R300, R308, R314; entry 9). -/
def outsideMove (m : HostMove) (s : State) : State :=
  match m with
  | .call d => { s with port := some d }
  | .intrude d => { s with port := some d }
  | .poke a b => { s with mem := Memory.write s.mem a.toNat b }
  | .answer r => { s with answers := s.answers ++ [r] }
  | .wake => { s with delayReturns := s.delayReturns + 1 }
  | .pass => s
  | .reset => resetBlock s

/-- The outside world's move where it has one and may make it, else the block's step (R30, R308; entry 9). -/
def turn (s : State) : Result :=
  match s.host with
  | .call d :: rest => if s.busy then blockStep s else .next (outsideMove (.call d) { s with host := rest })
  | .intrude d :: rest => .next (outsideMove (.intrude d) { s with host := rest })
  | .poke a b :: rest => .next (outsideMove (.poke a b) { s with host := rest })
  | .answer r :: rest => .next (outsideMove (.answer r) { s with host := rest })
  | .wake :: rest => .next (outsideMove .wake { s with host := rest })
  | .pass :: rest => blockStep { s with host := rest }
  | .reset :: rest => .next (outsideMove .reset { s with host := rest })
  | [] => blockStep s

/-- A stopped block takes no step and accepts no request (R264). The outside world's moves go on, a request presented
there stays on the port, and reset, whenever it comes, is taken (R264, R300; entry 15). -/
def stoppedTurn (c : FaultCode) (s : State) : Result :=
  match s.host with
  | [] => .fault (.stopped c)
  | m :: rest => .next (outsideMove m { s with host := rest })

/-- One step where no reset is next: of a stopped block (R264); else a presented request is taken (R121); else it is the
outside world's or the block's turn. -/
def liveTurn (s : State) : Result :=
  match s.fault with
  | some c => stoppedTurn c s
  | none =>
    match s.port with
    | some d => acceptPort d (takePort d s)
    | none => turn s

/-- One step, the configuration being admitted: a reset that is next comes before a presented request (R300). -/
def agentTurn (s : State) : Result :=
  match s.host with
  | .reset :: rest => .next (outsideMove .reset { s with host := rest })
  | _ => liveTurn s

/-- One step of the machine. A refused configuration has no run (R277). -/
def agentStep (s : State) : Result :=
  if configOk s then agentTurn s else .refused .configRefused

/-- A wire command where the ENGINE fetches its next one: BUSY with the micro-program that holds it, at its SEQ, and no
call, request or outside move in the way (entry 11). -/
def placeWire (i : Instr) (s : State) : State :=
  match wireSite i with
  | none => s
  | some (o, n) =>
    { s with
      busy := true
      op := opCode o
      seq := n
      inv := s.inv && o != .displayInvert
      pending := none
      port := none
      host := [] }

/-- The instruction whose bits are w, where the next step fetches it: a descriptor on the request port, a command byte
selected in a micro-program. A byte that is no command of R108 stands in no micro-program: nothing is placed. -/
def placeWord (s : State) (nbits w : Nat) : State :=
  match codeOfTableWord nbits w with
  | .request d => { s with port := some d, host := [] }
  | .wire b =>
    match decodeWire b with
    | .error _ => s
    | .ok i => placeWire i s

end Sys2Proof.Machine
end

