-- ==== Sys2Proof/Machine/Step.lean ====
section
/-! DEFINITION. The step of the machine, and the placing of an instruction where the next step fetches it. -/

namespace Sys2Proof.Machine

/-- One step of the machine (R30, R140). -/
def step (s : State) : Host.Outcome State Fault Refusal := agentStep s

/-- s with the instruction whose bits are w placed where step fetches its next instruction (entries 11, 12, 13). -/
def State.withFetchWord (s : State) (nbits w : Nat) : State := placeWord s nbits w

end Sys2Proof.Machine
end

