-- ==== Sys2Proof/Machine/Observer.lean ====
section
/-! DEFINITION. The panel side as a function of TRACE: the observer of R51 (10_state.md), and the panel settings that the
delivered commands ask for, as far as 44_wire_commands.md states them. The block reads none of it. -/

namespace Sys2Proof.Machine

/-- A window (x0, y0, x1, y1). -/
structure Window where
  x0 : Half
  y0 : Half
  x1 : Half
  y1 : Half
  deriving DecidableEq, Repr

/-- Which address command's parameters are being received. -/
inductive Axis where
  | col
  | row
  deriving DecidableEq, Repr

/-- The observer's state (R51) with what it must remember of an unfinished window-set (entry 19, DEDUCED). -/
structure Observer where
  /-- the last CASET with all four data bytes delivered -/
  col : Option (Half × Half)
  /-- the last RASET with all four data bytes delivered -/
  row : Option (Half × Half)
  /-- `col` was completed since the last RAMWR or failure -/
  colFresh : Bool
  /-- `row` was completed since the last RAMWR or failure -/
  rowFresh : Bool
  /-- the address command whose data bytes are being received, and those so far -/
  params : Option (Axis × List Byte)
  /-- ARMED -/
  armed : Bool
  /-- EXPECT -/
  expect : Nat
  /-- GOT -/
  got : Nat
  /-- DESYNC -/
  desync : Bool
  deriving DecidableEq, Repr

/-- The observer of the empty trace. EXPECT and GOT are 0 before any RAMWR: R51 gives them no value there (DESIGN CHOICE,
entry 19); while ARMED is false nothing reads them. -/
def Observer.start : Observer :=
  { col := none, row := none, colFresh := false, rowFresh := false, params := none, armed := false, expect := 0
    got := 0, desync := false }

/-- WIN: the columns of the last complete CASET with the rows of the last complete RASET; none before there is one of
each. R51 does not say whether the two change WIN only as a pair: each half changes alone here (DESIGN CHOICE, entry 19),
so after a complete CASET and no new RASET (V56) WIN has the new columns with the earlier rows. -/
def Observer.win (o : Observer) : Option Window :=
  match o.col, o.row with
  | some (x0, x1), some (y0, y1) => some { x0 := x0, y0 := y0, x1 := x1, y1 := y1 }
  | _, _ => none

/-- (x1-x0+1)*(y1-y0+1)*2 (R51). -/
def windowBytes (w : Window) : Nat :=
  (w.x1.toNat - w.x0.toNat + 1) * (w.y1.toNat - w.y0.toNat + 1) * 2

/-- The stream ends while ARMED and GOT ≠ EXPECT (R51). -/
def Observer.short (o : Observer) : Bool := o.armed && o.got != o.expect

/-- A command byte ends the stream and any unfinished parameter list. -/
def Observer.endStream (o : Observer) : Observer :=
  { o with desync := o.desync || o.short, armed := false, params := none }

/-- A transfer failed inside a window-set or a stream. -/
def Observer.fail (o : Observer) : Observer :=
  { o with desync := true, colFresh := false, rowFresh := false, params := none }

/-- RAMWR delivered: ARMED; a complete CASET, RASET and RAMWR clears DESYNC. Where WIN is none EXPECT is 0: R51 gives it no
value there (DESIGN CHOICE, entry 19). -/
def Observer.arm (o : Observer) : Observer :=
  { o with
    armed := true
    got := 0
    expect :=
      match o.win with
      | some w => windowBytes w
      | none => 0
    desync := o.desync && !(o.colFresh && o.rowFresh)
    colFresh := false
    rowFresh := false }

/-- A command byte, delivered or not. R51 asks of WIN only that the four data bytes were delivered; where the CASET or
RASET byte itself was answered `err` (INIT under IGNORE) and its four data bytes `ok`, the model takes them for no
parameters, and WIN stays (DESIGN CHOICE, entry 19). -/
def Observer.command (b : Byte) (r : Answer) (o : Observer) : Observer :=
  match r, decodeWire b with
  | .ok, .ok .caset => { o.endStream with params := some (.col, []) }
  | .ok, .ok .raset => { o.endStream with params := some (.row, []) }
  | .ok, .ok .ramwr => o.endStream.arm
  | .err, .ok .caset => o.endStream.fail
  | .err, .ok .raset => o.endStream.fail
  | .err, .ok .ramwr => o.endStream.fail
  | _, _ => o.endStream

/-- Two bytes as a 16-bit value, most significant first (R110). -/
def halfOf (h l : Byte) : Half := h ++ l

/-- Data bytes for an address command. -/
def Observer.address (a : Axis) (bs : List Byte) (o : Observer) : Observer :=
  match bs with
  | [b0, b1, b2, b3] =>
    match a with
    | .col => { o with params := none, colFresh := true, col := some (halfOf b0 b1, halfOf b2 b3) }
    | .row => { o with params := none, rowFresh := true, row := some (halfOf b0 b1, halfOf b2 b3) }
  | _ => { o with params := some (a, bs) }

/-- A data transfer, delivered or not. -/
def Observer.data (bs : List Byte) (r : Answer) (o : Observer) : Observer :=
  match r with
  | .ok =>
    if o.armed then { o with got := o.got + bs.length }
    else
      match o.params with
      | none => o
      | some (a, sofar) => o.address a (sofar ++ bs)
  | .err => if o.armed || o.params.isSome then o.fail else o

/-- One event of TRACE. -/
def Observer.event (o : Observer) (e : Event) : Observer :=
  match e with
  | .xfer .cmd [b] r => o.command b r
  | .xfer .data bs r => o.data bs r
  | _ => o

/-- The observer after the events of a trace that goes on. -/
def Observer.after (t : List Event) : Observer := t.foldl Observer.event Observer.start

/-- The observer of a TRACE that ends here (R51). -/
def observe (t : List Event) : Observer :=
  { Observer.after t with desync := (Observer.after t).desync || (Observer.after t).short }

/-! ## Panel settings (44_wire_commands.md) -/

/-- What the delivered commands ask of the panel; none where nothing was asked since SWRESET, and where a failed transfer
leaves it unknown (R266; entry 20, DEDUCED). It is no claim about what the panel shows. -/
structure PanelView where
  /-- SLPOUT (R241) -/
  awake : Option Bool
  /-- NORON (R242) -/
  normalMode : Option Bool
  /-- INVON, INVOFF (R243, R244) -/
  inverted : Option Bool
  /-- DISPON (R245) -/
  displayOn : Option Bool
  /-- the MADCTL byte (R249) -/
  madctl : Option Byte
  /-- the COLMOD byte (R250) -/
  colmod : Option Byte
  /-- the delivered MADCTL or COLMOD whose one data byte is still to come (R109); none for every other command -/
  awaiting : Option Instr
  deriving DecidableEq, Repr

/-- Nothing known: before any command, and after SWRESET (R240). -/
def PanelView.unknown : PanelView :=
  { awake := none, normalMode := none, inverted := none, displayOn := none, madctl := none, colmod := none
    awaiting := none }

/-- What a command asks for, or, with `awaiting`, that its one data byte comes next. -/
def PanelView.command (i : Instr) (p : PanelView) : PanelView :=
  match i with
  | .swreset => PanelView.unknown
  | .slpout => { p with awake := some true, awaiting := none }
  | .noron => { p with normalMode := some true, awaiting := none }
  | .invoff => { p with inverted := some false, awaiting := none }
  | .invon => { p with inverted := some true, awaiting := none }
  | .dispon => { p with displayOn := some true, awaiting := none }
  | .madctl => { p with awaiting := some .madctl }
  | .colmod => { p with awaiting := some .colmod }
  | _ => { p with awaiting := none }

/-- A command whose byte failed, so that it may or may not have been delivered (R265, R266): what it would change is
unknown from then on, and no data byte is its parameter. SLPOUT, NORON and DISPON ask for what is unknown or asked for
already, so they change nothing. -/
def PanelView.failed (i : Instr) (p : PanelView) : PanelView :=
  match i with
  | .swreset => PanelView.unknown
  | .invoff => { p with inverted := none, awaiting := none }
  | .invon => { p with inverted := none, awaiting := none }
  | .madctl => { p with madctl := none, awaiting := none }
  | .colmod => { p with colmod := none, awaiting := none }
  | _ => { p with awaiting := none }

/-- The one data byte of the awaited MADCTL or COLMOD (R249, R250): known where it was delivered, unknown where its
transfer failed (R266). No later byte is taken for it. -/
def PanelView.parameter (v : Option Byte) (p : PanelView) : PanelView :=
  match p.awaiting with
  | some .madctl => { p with madctl := v, awaiting := none }
  | some .colmod => { p with colmod := v, awaiting := none }
  | _ => p

/-- One event of TRACE. -/
def PanelView.event (p : PanelView) (e : Event) : PanelView :=
  match e with
  | .xfer .cmd [b] r =>
    match decodeWire b, r with
    | .ok i, .ok => p.command i
    | .ok i, .err => p.failed i
    | .error _, _ => p
  | .xfer .data [b] .ok => p.parameter (some b)
  | .xfer .data _ .err => p.parameter none
  | _ => p

/-- The panel settings a TRACE asks for. -/
def panelView (t : List Event) : PanelView := t.foldl PanelView.event PanelView.unknown

end Sys2Proof.Machine
end

