-- ==== Sys2Proof/Safety.lean ====
section
/-! DEFINITION. What counts as a safe run (R313, R52) and the invariants claims use. -/

namespace Sys2Proof.Safety

open Sys2Proof.Machine

/-! ## The end of a run (R313) -/

/-- Does a move of the outside world issue a request? -/
def issues : HostMove → Bool
  | .call _ => true
  | .intrude _ => true
  | .poke _ _ => false
  | .answer _ => false
  | .wake => false
  | .pass => false
  | .reset => false

/-- The end of a run of a host program, the list of its requests: every one of them, and no other, was taken since reset
and was answered, none is to come, and BUSY = 0 and FAULT = none. -/
def ended (program : List Descriptor) (s : State) : Bool :=
  s.requests == program && s.responses.length == program.length && !s.host.any issues && s.port == none &&
    s.pending == none && !s.busy && s.fault == none

/-- The observation of an ended run: its responses, its TRACE and the final LC, all since reset. -/
structure Observation where
  responses : List Status
  trace : List Event
  lc : Lc
  deriving DecidableEq, Repr

/-- The observation; none where the state is no end of a run of the program. -/
def observation (program : List Descriptor) (s : State) : Option Observation :=
  if ended program s then some { responses := s.responses, trace := s.trace, lc := s.lc } else none

/-! ## The transfers of a trace (R52, R106, R109, R116) -/

/-- A command transfer is one byte of the eleven; a data transfer is 1 to `ceiling` bytes (R106, R116, R307). -/
def transferLegal (ceiling : Nat) : Event → Bool
  | .xfer .cmd [b] _ => (decodeWire b).isOk
  | .xfer .cmd _ _ => false
  | .xfer .data bs _ => 1 ≤ bs.length && bs.length ≤ ceiling
  | .acquire _ => true
  | .release => true
  | .dc _ => true
  | .wait _ => true

/-- Every transfer of the trace is legal. -/
def transfersLegal (ceiling : Nat) (t : List Event) : Bool := t.all (transferLegal ceiling)

/-- The level the select line has after a trace, `l` before it. -/
def lineAfter (l : Option Level) : List Event → Option Level
  | [] => l
  | .dc m :: t => lineAfter (some m) t
  | .xfer _ _ _ :: t => lineAfter l t
  | .acquire _ :: t => lineAfter l t
  | .release :: t => lineAfter l t
  | .wait _ :: t => lineAfter l t

/-- Every transfer of the trace goes out at the level last driven (R52.1, R305), the line being at `l` before it. -/
def lineRight (l : Option Level) : List Event → Bool
  | [] => true
  | .dc m :: t => lineRight (some m) t
  | .xfer k _ _ :: t => l == some k && lineRight l t
  | .acquire _ :: t => lineRight l t
  | .release :: t => lineRight l t
  | .wait _ :: t => lineRight l t

/-- What R304 makes of a trace. -/
structure WaitScan where
  /-- the last command byte sent -/
  last : Option Byte
  /-- INIT's commands up to DISPON are under way: since an `Acquire(ok)`, no DISPON and no `Release` -/
  inInit : Bool
  /-- the wait that the last event owes as the very next event -/
  owed : Option Nat
  /-- every wait owed before was the very next event -/
  kept : Bool
  deriving DecidableEq, Repr

/-- The wait that must be the next event (R304): after a delivered SWRESET, SLPOUT, NORON or DISPON, which only INIT sends;
after a delivered INVON of INIT; after COLMOD's delivered data byte. None for every other event. -/
def WaitScan.owes (w : WaitScan) (e : Event) : Option Nat :=
  match e with
  | .xfer .cmd [b] .ok =>
    match decodeWire b with
    | .ok .swreset => some Config.tSwreset
    | .ok .slpout => some Config.tSlpout
    | .ok .invon => if w.inInit then some Config.tInvon else none
    | .ok .noron => some Config.tNoron
    | .ok .dispon => some Config.tDispon
    | _ => none
  | .xfer .data _ .ok => if w.last = some (cmdCode .colmod) then some Config.tColmod else none
  | _ => none

/-- Is INIT between its acquisition and its DISPON after an event? -/
def WaitScan.initAfter (w : WaitScan) (e : Event) : Bool :=
  match e with
  | .acquire .ok => true
  | .release => false
  | .xfer .cmd [b] _ => w.inInit && b != cmdCode .dispon
  | _ => w.inInit

/-- The last command byte after an event. -/
def WaitScan.lastAfter (w : WaitScan) (e : Event) : Option Byte :=
  match e with
  | .xfer .cmd [b] _ => some b
  | _ => w.last

/-- One event more. -/
def WaitScan.event (w : WaitScan) (e : Event) : WaitScan :=
  { last := w.lastAfter e
    inInit := w.initAfter e
    owed := w.owes e
    kept :=
      w.kept &&
        match w.owed with
        | none => true
        | some ms => e == .wait ms }

/-- A whole trace. -/
def waitScan (t : List Event) : WaitScan :=
  t.foldl WaitScan.event { last := none, inInit := false, owed := none, kept := true }

/-- Number of transfers (R178, R208). -/
def transferCount (t : List Event) : Nat :=
  t.countP fun e =>
    match e with
    | .xfer _ _ _ => true
    | _ => false

/-- Number of select-line events (R178, R208). -/
def dcCount (t : List Event) : Nat :=
  t.countP fun e =>
    match e with
    | .dc _ => true
    | _ => false

/-- The bytes sent, in order. -/
def sentBytes : List Event → List Byte
  | [] => []
  | .xfer _ bs _ :: t => bs ++ sentBytes t
  | .dc _ :: t => sentBytes t
  | .acquire _ :: t => sentBytes t
  | .release :: t => sentBytes t
  | .wait _ :: t => sentBytes t

/-- The waits, in order. -/
def waitsOf : List Event → List Nat
  | [] => []
  | .wait ms :: t => ms :: waitsOf t
  | .xfer _ _ _ :: t => waitsOf t
  | .dc _ :: t => waitsOf t
  | .acquire _ :: t => waitsOf t
  | .release :: t => waitsOf t

/-- Each command of a micro-program is followed, before the next micro-operation that is no writeData, by exactly its
number of parameters; RAMWR by streamBegin (R109). `due` is what the command before owes. -/
def paramsFollow (due : Nat) : List MicroOp → Bool
  | [] => due == 0
  | .writeData _ :: t => due != 0 && paramsFollow (due - 1) t
  | .writeCommand b :: t =>
    due == 0 &&
    match decodeWire b with
    | .ok i =>
      match wireParams i with
      | some n => paramsFollow n t
      | none => t.head? == some .streamBegin && paramsFollow 0 t
    | .error _ => false
  | .streamBegin :: t => due == 0 && paramsFollow 0 t
  | .streamChunk _ :: t => due == 0 && paramsFollow 0 t
  | .streamEnd :: t => due == 0 && paramsFollow 0 t
  | .wait _ :: t => due == 0 && paramsFollow 0 t
  | .acquire :: t => due == 0 && paramsFollow 0 t
  | .release :: t => due == 0 && paramsFollow 0 t
  | .respond _ :: t => due == 0 && paramsFollow 0 t

/-! ## Expected events of a request whose transfers all answer `ok` -/

/-- A command unit (R141). -/
def commandEvents (b : Byte) : List Event := [.dc .cmd, .xfer .cmd [b] .ok]

/-- A data unit (R142). -/
def dataEvents (b : Byte) : List Event := [.dc .data, .xfer .data [b] .ok]

/-- The data units of a 16-bit value, high byte first (R74). -/
def halfEvents (v : Half) : List Event := dataEvents (hi v) ++ dataEvents (lo v)

/-- CASET or RASET with its two 16-bit parameters (R110, R246, R247). -/
def addressEvents (cmd : Byte) (start stop : Half) : List Event :=
  commandEvents cmd ++ halfEvents start ++ halfEvents stop

/-- A window-set (R160, R162); the bytes are those of R108. -/
def windowEvents (x0 y0 x1 y1 : Half) : List Event :=
  addressEvents 0x2A x0 x1 ++ addressEvents 0x2B y0 y1 ++ commandEvents 0x2C

/-- A stream between streamBegin and streamEnd (R143, R145). -/
def streamEvents (chunks : List (List Byte)) : List Event :=
  [.dc .data] ++ chunks.map (fun bs => .xfer .data bs .ok) ++ [.dc .cmd]

/-- The colour c, `n` times, high byte first (R172). -/
def colorBytes (c : Half) : Nat → List Byte
  | 0 => []
  | n + 1 => hi c :: lo c :: colorBytes c n

/-- The fill schedule of R173 for T = 2 * pixels = 32q + r bytes: q chunks of 16 pixels, then the r/2 left, if any. -/
def fillChunks (c : Half) (pixels : Nat) : List (List Byte) :=
  List.replicate (pixels / 16) (colorBytes c 16) ++
    (if pixels % 16 = 0 then [] else [colorBytes c (pixels % 16)])

/-- The host bytes [addr, addr + n) (R72). -/
def hostBytes (m : Memory) (addr n : Nat) : List Byte := (List.range n).map fun i => Memory.read m (addr + i)

/-- The buffer schedule of R175 for LEN = CHUNK_MAX * q + r. -/
def bufferChunks (m : Memory) (ptr len chunkMax : Nat) : List (List Byte) :=
  (List.range (len / chunkMax)).map (fun k => hostBytes m (ptr + k * chunkMax) chunkMax) ++
    (if len % chunkMax = 0 then [] else [hostBytes m (ptr + len / chunkMax * chunkMax) (len % chunkMax)])

/-- INIT's events (R202), the bytes those of R108. -/
def initEvents (cfg : Config) : List Event :=
  [.acquire .ok] ++
  commandEvents 0x01 ++ [.wait 150] ++
  commandEvents 0x11 ++ [.wait 500] ++
  commandEvents 0x3A ++ dataEvents 0x55 ++ [.wait 10] ++
  commandEvents 0x36 ++ dataEvents 0x00 ++
  addressEvents 0x2A cfg.initCol0 cfg.initCol1 ++
  addressEvents 0x2B cfg.initRow0 cfg.initRow1 ++
  commandEvents 0x21 ++ [.wait 10] ++
  commandEvents 0x13 ++ [.wait 10] ++
  commandEvents 0x29 ++ [.wait 500]

/-- The events with the given answers of their transfers, in order (R206). -/
def answered : List Event → List Answer → List Event
  | [], _ => []
  | .xfer _ _ _ :: _, [] => []
  | .xfer l bs _ :: es, a :: as => .xfer l bs a :: answered es as
  | .dc l :: es, as => .dc l :: answered es as
  | .acquire r :: es, as => .acquire r :: answered es as
  | .release :: es, as => .release :: answered es as
  | .wait ms :: es, as => .wait ms :: answered es as

/-- The same, ending with the first transfer that is answered `err` (R205). -/
def untilError : List Event → List Answer → List Event
  | [], _ => []
  | .xfer _ _ _ :: _, [] => []
  | .xfer l bs _ :: _, .err :: _ => [.xfer l bs .err]
  | .xfer l bs _ :: es, .ok :: as => .xfer l bs .ok :: untilError es as
  | .dc l :: es, as => .dc l :: untilError es as
  | .acquire r :: es, as => .acquire r :: untilError es as
  | .release :: es, as => .release :: untilError es as
  | .wait ms :: es, as => .wait ms :: untilError es as

/-- Is the transport held after a trace, `held` before it (R18, R201)? -/
def heldAfter (held : Bool) : List Event → Bool
  | [] => held
  | .acquire .ok :: t => heldAfter true t
  | .acquire .err :: t => heldAfter held t
  | .release :: t => heldAfter false t
  | .dc _ :: t => heldAfter held t
  | .xfer _ _ _ :: t => heldAfter held t
  | .wait _ :: t => heldAfter held t

/-! ## States of a run -/

/-- The block waits for a request and nothing else moves (R302): no fault, not busy, no call outstanding, nothing on the
port, no move of the outside world. -/
def idle (s : State) : Prop :=
  configOk s = true ∧ s.fault = none ∧ s.busy = false ∧ s.pending = none ∧ s.port = none ∧ s.host = []

/-- The ENGINE may take a step (R140): BUSY = 1, FAULT = none, no call outstanding. -/
def engineReady (s : State) : Prop := s.fault = none ∧ s.busy = true ∧ s.pending = none

/-- No reset is the outside world's next move. -/
def noReset (s : State) : Prop := ∀ rest, s.host ≠ .reset :: rest

/-- k steps of the machine. -/
def steps (k : Nat) (s : State) : Result := Sys2Proof.core.run k s

/-! ## Invariants -/

/-- The outstanding call is the one the micro-operation at SEQ makes, on the line it needs. -/
def pendingFits (s : State) : Prop :=
  match s.pending with
  | none => True
  | some .acquire => microOp s = some .acquire
  | some (.unit .cmd b) => microOp s = some (.writeCommand b) ∧ s.dc = some .cmd
  | some (.unit .data b) => microOp s = some (.writeData b) ∧ s.dc = some .data
  | some (.chunk src bs) =>
    microOp s = some (.streamChunk src) ∧ s.rem ≠ 0 ∧ bs.length = chunkSize src s ∧ chunkPastTop src s = false
  | some (.wait ms) => microOp s = some (.wait ms)

/-- A drawing request's registers while it runs (R36, R40, R42): the corners are in order, the line is at DATA while chunks
go out, and a buffer's unread part ends at 2^32 or below. -/
def drawFits (o : Op) (s : State) : Prop :=
  match o with
  | .init => True
  | .uninit => True
  | .rotationSet => True
  | .displayInvert => True
  | .display => True
  | .pixelDraw => s.x0 ≤ s.x1 ∧ s.y0 ≤ s.y1 ∧ (s.seq = 12 → s.dc = some .data)
  | .rectDraw => s.x0 ≤ s.x1 ∧ s.y0 ≤ s.y1 ∧ (s.seq = 12 → s.dc = some .data) ∧ s.pat = fillPattern s.color
  | .bufferDraw =>
    s.x0 ≤ s.x1 ∧ s.y0 ≤ s.y1 ∧ (s.seq = 12 → s.dc = some .data) ∧
      (s.seq ≤ 12 → s.cur.toNat + s.rem.toNat ≤ 2 ^ 32)

/-- While BUSY a request's micro-program has a micro-operation at SEQ, LC is one the request was accepted in, and its
registers and outstanding call fit; while not BUSY no call is outstanding. -/
def requestFits (s : State) : Prop :=
  if s.busy then
    ∃ o, s.op = opCode o ∧ s.seq < (microProgram o s).length ∧ lifecycleOk o s.lc = true ∧ pendingFits s ∧ drawFits o s
  else s.pending = none

/-- The running-request invariant, under an admitted configuration. -/
def RequestInv (s : State) : Prop := configOk s = true ∧ requestFits s

/-- Every transfer in TRACE is legal under the configured ceiling. -/
def TransferInv (s : State) : Prop := RequestInv s ∧ transfersLegal s.cfg.chunkMax s.trace = true

/-- Every transfer in TRACE went out at the level last driven, and DC is that level. -/
def LineInv (s : State) : Prop :=
  RequestInv s ∧ lineRight none s.trace = true ∧ lineAfter none s.trace = s.dc

/-- The last command of a part of a micro-program. -/
def lastCommand : List MicroOp → Option Byte
  | [] => none
  | .writeCommand b :: t => some ((lastCommand t).getD b)
  | _ :: t => lastCommand t

/-- INIT is between its acquisition and its DISPON. -/
def initUnderWay (s : State) : Prop := s.busy = true ∧ s.op = opCode .init ∧ 1 ≤ s.seq ∧ s.seq ≤ 24

/-- Every owed wait in TRACE was kept, and one still owed is the micro-operation at SEQ of the running request. What TRACE
says of the last command and of INIT is what the registers say: the last command before SEQ is the last one sent; and
INIT's commands up to DISPON are under way in TRACE where SEQ says so, and otherwise only after an aborted INIT until its
transport is released. -/
def WaitInv (s : State) : Prop :=
  RequestInv s ∧ (waitScan s.trace).kept = true ∧
    (∀ ms, (waitScan s.trace).owed = some ms → s.busy = true ∧ s.pending = none ∧ microOp s = some (.wait ms)) ∧
    (∀ o b, s.busy = true → s.op = opCode o → lastCommand ((microProgram o s).take s.seq) = some b →
      (waitScan s.trace).last = some b) ∧
    (initUnderWay s → (waitScan s.trace).inInit = true) ∧
    ((waitScan s.trace).inInit = true →
      initUnderWay s ∨ (s.lc = .initFailed ∧ ¬(s.busy = true ∧ s.op = opCode .uninit ∧ s.seq = 1)))

/-- ACQ (R44) is what TRACE says of the transport; between UNINIT's release and its response, where LC is not yet OFF,
TRACE says it is released. -/
def HeldInv (s : State) : Prop :=
  RequestInv s ∧
    if s.busy = true ∧ s.op = opCode .uninit ∧ s.seq = 1 then heldAfter false s.trace = false
    else acq s = heldAfter false s.trace

/-- How many bytes the stream of the running drawing request carries (R170, R173, R176). -/
def streamTotal (o : Op) (s : State) : Nat :=
  match o with
  | .bufferDraw => s.len.toNat
  | _ => (s.x1.toNat - s.x0.toNat + 1) * (s.y1.toNat - s.y0.toNat + 1) * 2

/-- An event of a stream that goes on: the select line, or delivered data. -/
def streamEvent : Event → Bool
  | .dc _ => true
  | .xfer .data _ .ok => true
  | .xfer .data _ .err => false
  | .xfer .cmd _ _ => false
  | .acquire _ => false
  | .release => false
  | .wait _ => false

/-- While a drawing request runs, TRACE ends with what it has sent: the first SEQ units of the window-set of X0 to Y1, and
the select-line event of one under way; then the whole window-set, followed by delivered data alone. What was delivered
and REM make up the stream's length. -/
def drawSent (o : Op) (s : State) : Prop :=
  if s.seq ≤ 10 then
    s.rem.toNat = streamTotal o s ∧
      ∃ before, s.trace = before ++ (windowEvents s.x0 s.y0 s.x1 s.y1).take (2 * s.seq + s.pending.isSome.toNat)
  else
    ∃ before tail, s.trace = before ++ windowEvents s.x0 s.y0 s.x1 s.y1 ++ tail ∧ tail.all streamEvent = true ∧
      (sentBytes tail).length + s.rem.toNat = streamTotal o s

/-- Window before pixel data (R306), and never more or less data than the stream's length. -/
def DrawInv (s : State) : Prop :=
  RequestInv s ∧
    (s.busy = true → ∀ o, o = .pixelDraw ∨ o = .rectDraw ∨ o = .bufferDraw → s.op = opCode o → drawSent o s)

end Sys2Proof.Safety
end

