-- ==== Sys2Proof/Certificates/Slice0/Obligations.lean ====
section
/-! DEFINITION. The statements for the provers. Each docstring names the rule of spec/ it formalises. -/

open Sys2Proof Sys2Proof.Machine Sys2Proof.Safety

/-! ## Encoding -/

/-- Decoding the code of any instruction gives it back, with every operand at every value (R101, R102, R105, R108). -/
def Obligations.DecodeEncodeRoundTrip : Prop :=
  ∀ i : Instr, decode (encode i) = .ok i

/-- A descriptor decodes exactly when it is outside the reserved space of R104. -/
def Obligations.DecodesExactlyLegalDescriptors : Prop :=
  ∀ d : Descriptor, (∃ i, decodeRequest d = .ok i) ↔ d.wf = true

/-- R104: acceptance of a descriptor in the reserved space records F_ILLEGAL_REQUEST and emits nothing: FAULT is all that
changes beside the port, which the descriptor leaves, and the model's record of the requests taken (entry 21). -/
def Obligations.ReservedDescriptorFaults : Prop :=
  ∀ (d : Descriptor) (s : State),
    d.wf = false → configOk s = true → s.fault = none → s.busy = false → s.port = some d → noReset s →
    step s = .next { s with port := none, requests := s.requests ++ [d], fault := some .illegalRequest }

/-- R103: the fields a request does not use are ignored. Two descriptors with one low half of w0 decode alike as soon as
they agree on what their OP uses: COLOR for 3 and 4, w1 for 3 to 5, w2 for 4 and 5, w3 and w4 for 5; ORIENT only for 6
and INV only for 7. -/
def Obligations.UnusedFieldsIgnored : Prop :=
  ∀ d e : Descriptor,
    d.op = e.op → d.rsv0 = e.rsv0 → d.rsv1 = e.rsv1 →
    (d.op = 3 ∨ d.op = 4 → d.color = e.color) →
    (d.op = 3 ∨ d.op = 4 ∨ d.op = 5 → d.w1 = e.w1) →
    (d.op = 4 ∨ d.op = 5 → d.w2 = e.w2) →
    (d.op = 5 → d.w3 = e.w3 ∧ d.w4 = e.w4) →
    (d.op = 6 → d.orient = e.orient) →
    (d.op = 7 → d.inv = e.inv) →
    decodeRequest d = decodeRequest e

/-- Every writeCommand of every micro-program carries the byte of one of the eleven wire commands (R108, R116). -/
def Obligations.MicroProgramsSendOnlyCommands : Prop :=
  ∀ (o : Op) (s : State) (b : Byte),
    MicroOp.writeCommand b ∈ microProgram o s → ∃ i : Instr, i.isWire = true ∧ encode i = .wire b ∧ decodeWire b = .ok i

/-- R109: in every micro-program each command is followed, before the next one, by exactly the data bytes of its row,
RAMWR by the stream; and INIT sends no RAMWR. -/
def Obligations.ParametersFollowCommands : Prop :=
  (∀ (o : Op) (s : State), paramsFollow 0 (microProgram o s) = true) ∧
  ∀ cfg : Config, MicroOp.writeCommand 0x2C ∉ initProgram cfg

/-- Words written out in 95_test_vectors.md (E2, E3, E6, V37, V38, V44 to V47) and R108's table decode to what they stand
for. -/
def Obligations.SpecWordsDecode : Prop :=
  decodeRequest ⟨0xF8000004, 0x00040003, 0x00010001, 0, 0⟩ = .ok (.rectDraw 3 4 1 1 0xF800) ∧
  decodeRequest ⟨0x00000005, 0, 0x000100FA, 0x20000000, 0x000001F4⟩ = .ok (.bufferDraw 0 0 250 1 0x20000000 500) ∧
  decodeRequest ⟨0x12340003, 0x00060005, 0, 0, 0⟩ = .ok (.pixelDraw 5 6 0x1234) ∧
  decodeRequest ⟨0x00000306, 0, 0, 0, 0⟩ = .ok (.rotationSet 3) ∧
  decodeRequest ⟨0x00000407, 0, 0, 0, 0⟩ = .ok (.displayInvert true) ∧
  decodeRequest ⟨0x00000014, 0, 0x00010001, 0, 0⟩ = .error .reservedBits ∧
  decodeRequest ⟨0x00000009, 0, 0, 0, 0⟩ = .error (.reservedOp 9) ∧
  decodeWire 0x2A = .ok .caset ∧ decodeWire 0x3A = .ok .colmod ∧ decodeWire 0x22 = .error (.notACommand 0x22)

/-! ## Reset and stops -/

/-- R300: what reset leaves, at power-on and by a reset move in any state, a stopped one too; RST is not driven (R43); the
configuration is not reset. The registers R300 leaves unspecified are not named. -/
def Obligations.ResetLeavesSpecValues : Prop :=
  (State.reset.lc = .off ∧ State.reset.busy = false ∧ State.reset.seq = 0 ∧ State.reset.dc = none ∧
    State.reset.rst = none ∧ State.reset.resp = none ∧ State.reset.fault = none ∧ State.reset.trace = []) ∧
  ∀ (s : State) (rest : List HostMove), configOk s = true → s.host = .reset :: rest →
    ∃ t, step s = .next t ∧ t.lc = .off ∧ t.busy = false ∧ t.seq = 0 ∧ t.dc = none ∧ t.rst = none ∧ t.resp = none ∧
      t.fault = none ∧ t.trace = [] ∧ t.cfg = s.cfg

/-- The invariants hold at reset. -/
def Obligations.ResetMeetsInvariants : Prop :=
  TransferInv State.reset ∧ LineInv State.reset ∧ WaitInv State.reset ∧ HeldInv State.reset ∧ DrawInv State.reset ∧
    Memory.wf State.reset.mem = true

/-- R46 and R264: `raise` records a first fault and changes nothing else, and never overwrites one; a stopped block takes no
step and accepts no request: with no outside move left the step answers the fault `stopped`, and in every other step that
is no reset nothing but the port, host memory and the outside world's own answers and moves changes; and reset clears
FAULT, whatever moves come before it. The fault `stopped`, and that the outside world's moves go on there, are the model's
(entries 9 and 15). -/
def Obligations.FaultEntryAndStop : Prop :=
  (∀ (c : FaultCode) (s : State), s.fault = none → raise c s = { s with fault := some c }) ∧
  (∀ (c d : FaultCode) (s : State), s.fault = some d → raise c s = s) ∧
  (∀ (d : FaultCode) (s : State), configOk s = true → s.fault = some d → s.host = [] → step s = .fault (.stopped d)) ∧
  (∀ (d : FaultCode) (s t : State), s.fault = some d → noReset s → step s = .next t →
    t = { s with port := t.port, mem := t.mem, answers := t.answers, delayReturns := t.delayReturns, host := t.host }) ∧
  (∀ (d : FaultCode) (s : State) (before after : List HostMove), configOk s = true → s.fault = some d →
    s.host = before ++ .reset :: after → (∀ m ∈ before, m ≠ .reset) →
    ∃ t, steps (before.length + 1) s = .next t ∧ t.fault = none ∧ t.host = after) ∧
  State.reset.fault = none

/-- R277: under CHUNK_MAX < 32 there is no run: every step is refused. -/
def Obligations.RefusedConfigurationHasNoRun : Prop :=
  ∀ s : State, s.cfg.chunkMax < 32 → step s = .refused .configRefused

/-- R277: an admitted configuration has every number in its range, and CHUNK_MAX >= 32. -/
def Obligations.AdmittedConfigurationsInRange : Prop :=
  ∀ r : RawConfig, (∃ c, r.toConfig = some c) ↔
    32 ≤ r.chunkMax ∧ r.tabColor < 4 ∧ r.initCol0 < 65536 ∧ r.initCol1 < 65536 ∧ r.initRow0 < 65536 ∧
      r.initRow1 < 65536 ∧ r.madctlRot.length = 8 ∧ (∀ n ∈ r.madctlRot, n < 256) ∧ r.initErrorPolicy < 2 ∧
      r.lengthCheck < 2

/-! ## A step runs the instruction -/

/-- The step takes the presented descriptor off the port, records it as a request of the run (entry 21), and is `exec` of
the instruction it decodes to (R121). -/
def Obligations.StepRunsPresentedRequest : Prop :=
  ∀ (d : Descriptor) (i : Instr) (s : State),
    configOk s = true → s.fault = none → s.port = some d → noReset s → decodeRequest d = .ok i →
    step s = exec i { s with port := none, requests := s.requests ++ [d] }

/-- The step of a ready ENGINE is the micro-operation at SEQ, and for a command byte it is `exec` of the wire command the
byte decodes to, wherever the outside world has no move it may make now: none at all, a `pass`, which it uses up, or a
blocking call (R34, R140, R141). -/
def Obligations.StepRunsMicroOperation : Prop :=
  ∀ (m : MicroOp) (s : State),
    configOk s = true → engineReady s → s.port = none → microOp s = some m →
    (s.host = [] → step s = runMicroOp m s) ∧
    (∀ d rest, s.host = .call d :: rest → step s = runMicroOp m s) ∧
    (∀ rest, s.host = .pass :: rest → step s = runMicroOp m { s with host := rest }) ∧
    ∀ (b : Byte) (i : Instr), m = .writeCommand b → decodeWire b = .ok i → runMicroOp m s = exec i s

/-! ## Acceptance -/

/-- INIT in OFF, UNINIT in READY or INIT_FAILED, and DISPLAY in every LC are accepted: BUSY <- 1, SEQ <- 0, OP <- op and
nothing else (R121, R200, R212, R215). -/
def Obligations.InitUninitDisplayAccepted : Prop :=
  ∀ s : State, s.fault = none → s.busy = false →
    (s.lc = .off → exec .init s = .next { s with busy := true, seq := 0, op := 1 }) ∧
    (s.lc = .ready ∨ s.lc = .initFailed → exec .uninit s = .next { s with busy := true, seq := 0, op := 2 }) ∧
    exec .display s = .next { s with busy := true, seq := 0, op := 8 }

/-- ROTATION_SET and DISPLAY_INVERT in READY are accepted with every operand, which is latched (R121, R213, R214). -/
def Obligations.RotationAndInvertAccepted : Prop :=
  ∀ (o : BitVec 2) (b : Bool) (s : State), s.fault = none → s.busy = false → s.lc = .ready →
    exec (.rotationSet o) s = .next { s with busy := true, seq := 0, op := 6, orient := o } ∧
    exec (.displayInvert b) s = .next { s with busy := true, seq := 0, op := 7, inv := b }

/-- PIXEL_DRAW in READY is accepted with every operand: the window is (x, y, x, y) and REM is 2 (R170, R177). -/
def Obligations.PixelDrawAccepted : Prop :=
  ∀ (x y c : Half) (s : State), s.fault = none → s.busy = false → s.lc = .ready →
    exec (.pixelDraw x y c) s =
      .next { s with busy := true, seq := 0, op := 3, x0 := x, y0 := y, x1 := x, y1 := y, color := c, rem := 2 }

/-- RECT_DRAW in READY, with W and H nonzero, corners at most 0xFFFF and 2*W*H below 2^32, is accepted: it latches the
window and COLOR, fills PAT with COLOR high byte first, sets REM to 2*W*H, exactly, and changes nothing else (R170 to
R172). -/
def Obligations.RectDrawAccepted : Prop :=
  ∀ (x y w h c : Half) (s : State), s.fault = none → s.busy = false → s.lc = .ready →
    1 ≤ w.toNat → 1 ≤ h.toNat → x.toNat + w.toNat ≤ 65536 → y.toNat + h.toNat ≤ 65536 →
    2 * w.toNat * h.toNat < 4294967296 →
    ∃ (x1 y1 : Half) (pat : Vector Byte 32) (rem : Word),
      exec (.rectDraw x y w h c) s =
        .next { s with
          busy := true, seq := 0, op := 4, x0 := x, y0 := y, x1 := x1, y1 := y1, color := c, pat := pat, rem := rem } ∧
      x1.toNat + 1 = x.toNat + w.toNat ∧ y1.toNat + 1 = y.toNat + h.toNat ∧
      rem.toNat = 2 * w.toNat * h.toNat ∧ pat.toList = colorBytes c 16

/-- BUFFER_DRAW in READY, with W and H nonzero, corners at most 0xFFFF, a buffer that ends at 2^32 or below and, under
LENGTH_CHECK = FAULT, LEN = 2*W*H, is accepted: it latches the window, PTR and LEN, and sets CUR and REM to them (R170,
R174, R176). -/
def Obligations.BufferDrawAccepted : Prop :=
  ∀ (x y w h : Half) (p l : Word) (s : State), s.fault = none → s.busy = false → s.lc = .ready →
    1 ≤ w.toNat → 1 ≤ h.toNat → x.toNat + w.toNat ≤ 65536 → y.toNat + h.toNat ≤ 65536 →
    p.toNat + l.toNat ≤ 4294967296 → (s.cfg.lengthCheck = .fault → l.toNat = 2 * w.toNat * h.toNat) →
    ∃ x1 y1 : Half,
      exec (.bufferDraw x y w h p l) s =
        .next { s with
          busy := true, seq := 0, op := 5, x0 := x, y0 := y, x1 := x1, y1 := y1, ptr := p, len := l, cur := p, rem := l } ∧
      x1.toNat + 1 = x.toNat + w.toNat ∧ y1.toNat + 1 = y.toNat + h.toNat

/-- A request that arrives while BUSY = 1 is F_REENTRANT, whatever it is; one whose lifecycle condition fails is
F_NOT_READY; nothing but FAULT changes (R33, R121, R262, R263). -/
def Obligations.BusyAndLifecycleFaults : Prop :=
  ∀ (i : Instr) (s : State), i.isWire = false → s.fault = none →
    (s.busy = true → exec i s = .next { s with fault := some .reentrant }) ∧
    (s.busy = false →
      (i = .init ∧ s.lc ≠ .off) ∨ (i = .uninit ∧ s.lc = .off) ∨
        (i ≠ .init ∧ i ≠ .uninit ∧ i ≠ .display ∧ s.lc ≠ .ready) →
      exec i s = .next { s with fault := some .notReady })

/-- R170's faults of RECT_DRAW and BUFFER_DRAW in the order of R263, each recorded alone with nothing else changed. -/
def Obligations.OperandFaultsInOrder : Prop :=
  ∀ (x y w h c : Half) (p l : Word) (s : State), s.fault = none → s.busy = false → s.lc = .ready →
    (w.toNat = 0 ∨ h.toNat = 0 ∨ 65536 < x.toNat + w.toNat ∨ 65536 < y.toNat + h.toNat →
      exec (.rectDraw x y w h c) s = .next { s with fault := some .badWindow } ∧
      exec (.bufferDraw x y w h p l) s = .next { s with fault := some .badWindow }) ∧
    (1 ≤ w.toNat ∧ 1 ≤ h.toNat ∧ x.toNat + w.toNat ≤ 65536 ∧ y.toNat + h.toNat ≤ 65536 →
      (4294967296 ≤ 2 * w.toNat * h.toNat →
        exec (.rectDraw x y w h c) s = .next { s with fault := some .countOverflow }) ∧
      (s.cfg.lengthCheck = .fault ∧ l.toNat ≠ 2 * w.toNat * h.toNat →
        exec (.bufferDraw x y w h p l) s = .next { s with fault := some .lengthMismatch }) ∧
      (¬(s.cfg.lengthCheck = .fault ∧ l.toNat ≠ 2 * w.toNat * h.toNat) ∧ 4294967296 < p.toNat + l.toNat →
        exec (.bufferDraw x y w h p l) s = .next { s with fault := some .bufferWrap }))

/-- The frame of the eight requests: where `exec` answers a next state, every register but BUSY, SEQ, OP, FAULT and the
operand registers the request latches is unchanged (X0 to Y1, COLOR and REM for PIXEL_DRAW; those and PAT for RECT_DRAW;
X0 to Y1, PTR, LEN, CUR and REM for BUFFER_DRAW; ORIENT for ROTATION_SET; INV for DISPLAY_INVERT), TRACE is unchanged, and
so is every byte of host memory; and where FAULT changes, nothing else does (R121, R264). -/
def Obligations.RequestFrame : Prop :=
  ∀ (i : Instr) (s t : State), i.isWire = false → exec i s = .next t →
    (t.cfg = s.cfg ∧ t.lc = s.lc ∧ t.dc = s.dc ∧ t.rst = s.rst ∧ t.resp = s.resp ∧ t.trace = s.trace ∧
      t.pending = s.pending ∧ t.answers = s.answers ∧ t.delayReturns = s.delayReturns ∧ t.port = s.port ∧
      t.host = s.host ∧ t.responses = s.responses ∧ t.requests = s.requests ∧ t.freeDraws = s.freeDraws ∧
      ∀ a, Memory.read t.mem a = Memory.read s.mem a) ∧
    (t.fault ≠ s.fault → t = { s with fault := t.fault }) ∧
    ((∀ x y c, i ≠ .pixelDraw x y c) → (∀ x y w h c, i ≠ .rectDraw x y w h c) →
      (∀ x y w h p l, i ≠ .bufferDraw x y w h p l) →
      t.x0 = s.x0 ∧ t.y0 = s.y0 ∧ t.x1 = s.x1 ∧ t.y1 = s.y1 ∧ t.rem = s.rem) ∧
    ((∀ x y c, i ≠ .pixelDraw x y c) → (∀ x y w h c, i ≠ .rectDraw x y w h c) → t.color = s.color) ∧
    ((∀ x y w h c, i ≠ .rectDraw x y w h c) → t.pat = s.pat) ∧
    ((∀ x y w h p l, i ≠ .bufferDraw x y w h p l) → t.ptr = s.ptr ∧ t.len = s.len ∧ t.cur = s.cur) ∧
    ((∀ o, i ≠ .rotationSet o) → t.orient = s.orient) ∧
    ((∀ b, i ≠ .displayInvert b) → t.inv = s.inv)

/-! ## The wire commands -/

/-- R141 for the eleven wire commands SWRESET, SLPOUT, NORON, INVOFF, INVON, DISPON, CASET, RASET, RAMWR, MADCTL and
COLMOD, run by a ready ENGINE: DC <- CMD with its event, one 1-byte transfer; on `ok` SEQ advances by 1; on `err`
transfer_failed; with no answer the transfer is outstanding. Nothing else changes. -/
def Obligations.WireCommandSendsItsByte : Prop :=
  ∀ (i : Instr) (b : Byte) (s : State), i.isWire = true → encode i = .wire b → engineReady s →
    (∀ rest, s.answers = .ok :: rest →
      exec i s =
        .next { s with
          dc := some .cmd, trace := s.trace ++ [.dc .cmd, .xfer .cmd [b] .ok], answers := rest, seq := s.seq + 1 }) ∧
    (∀ rest, s.answers = .err :: rest →
      exec i s =
        .next (transferFailed { s with
          dc := some .cmd, trace := s.trace ++ [.dc .cmd, .xfer .cmd [b] .err], answers := rest })) ∧
    (s.answers = [] →
      exec i s =
        .next { s with
          dc := some .cmd, trace := s.trace ++ [.dc .cmd], pending := some (.unit .cmd b) })

/-- R151, R205, R206 and R265: a failed transfer in INIT under IGNORE advances SEQ and does nothing else; everywhere else
it responds ERR_TRANSFER and clears BUSY, and sets LC to INIT_FAILED exactly when OP = INIT; DC, REM, CUR, SEQ and TRACE
stay. -/
def Obligations.TransferFailedAbortsOrGoesOn : Prop :=
  ∀ s : State,
    (s.op = 1 → s.cfg.initErrorPolicy = .ignore → transferFailed s = { s with seq := s.seq + 1 }) ∧
    (s.op = 1 → s.cfg.initErrorPolicy = .abort →
      transferFailed s =
        { s with
          lc := .initFailed, resp := some .errTransfer, busy := false, responses := s.responses ++ [.errTransfer] }) ∧
    (s.op ≠ 1 →
      transferFailed s =
        { s with resp := some .errTransfer, busy := false, responses := s.responses ++ [.errTransfer] })

/-- The frame of the eleven wire commands: where `exec` answers a next state, the operand registers, REM, CUR, PAT, OP,
RST, FAULT, the configuration, the port, the outside world's moves and every byte of host memory are unchanged, TRACE has
only grown, DC is CMD, and LC, RESP, BUSY and the received responses change only where the transfer was answered `err`
(R141, R151, R265). -/
def Obligations.WireCommandFrame : Prop :=
  ∀ (i : Instr) (s t : State), i.isWire = true → exec i s = .next t →
    t.cfg = s.cfg ∧ t.op = s.op ∧ t.x0 = s.x0 ∧ t.y0 = s.y0 ∧ t.x1 = s.x1 ∧ t.y1 = s.y1 ∧ t.color = s.color ∧
    t.ptr = s.ptr ∧ t.len = s.len ∧ t.orient = s.orient ∧ t.inv = s.inv ∧ t.cur = s.cur ∧ t.rem = s.rem ∧
    t.pat = s.pat ∧ t.rst = s.rst ∧ t.fault = s.fault ∧ t.port = s.port ∧ t.host = s.host ∧
    t.requests = s.requests ∧ t.delayReturns = s.delayReturns ∧ t.freeDraws = s.freeDraws ∧
    (∀ a, Memory.read t.mem a = Memory.read s.mem a) ∧
    t.dc = some .cmd ∧ (∃ es, t.trace = s.trace ++ es) ∧
    ((∀ rest, s.answers ≠ .err :: rest) →
      t.lc = s.lc ∧ t.resp = s.resp ∧ t.busy = s.busy ∧ t.responses = s.responses)

/-- A wire command runs only in a ready ENGINE: in a stopped block, with BUSY = 0, or while a call is outstanding, `exec`
stops with the name of the reason (R140). -/
def Obligations.WireCommandNeedsReadyEngine : Prop :=
  ∀ (i : Instr) (s : State), i.isWire = true →
    (∀ c, s.fault = some c → exec i s = .fault (.stopped c)) ∧
    (s.fault = none → s.busy = false → exec i s = .fault .engineIdle) ∧
    (s.fault = none → s.busy = true → s.pending ≠ none → exec i s = .fault .engineHeld)

/-! ## The other micro-operations -/

/-- R142: writeData drives DC to DATA with its event and makes one 1-byte transfer; on `ok` SEQ advances, on `err`
transfer_failed; with no answer the transfer is outstanding. -/
def Obligations.WriteDataSendsItsByte : Prop :=
  ∀ (b : Byte) (s : State),
    (∀ rest, s.answers = .ok :: rest → s.pending = none →
      runMicroOp (.writeData b) s =
        .next { s with
          dc := some .data, trace := s.trace ++ [.dc .data, .xfer .data [b] .ok], answers := rest, seq := s.seq + 1 }) ∧
    (∀ rest, s.answers = .err :: rest → s.pending = none →
      runMicroOp (.writeData b) s =
        .next (transferFailed { s with
          dc := some .data, trace := s.trace ++ [.dc .data, .xfer .data [b] .err], answers := rest })) ∧
    (s.answers = [] → s.pending = none →
      runMicroOp (.writeData b) s =
        .next { s with dc := some .data, trace := s.trace ++ [.dc .data], pending := some (.unit .data b) })

/-- R143 and R145: streamBegin drives DC to DATA, streamEnd to CMD, each with its event and no transfer. -/
def Obligations.StreamEndsDriveTheLine : Prop :=
  ∀ s : State,
    runMicroOp .streamBegin s =
      .next { s with dc := some .data, trace := s.trace ++ [.dc .data], seq := s.seq + 1 } ∧
    runMicroOp .streamEnd s =
      .next { s with dc := some .cmd, trace := s.trace ++ [.dc .cmd], seq := s.seq + 1 }

/-- R144 for the fill and the pixel: n = min(REM, 32) bytes of PAT or n = min(REM, 2) bytes of COLOR, high byte first, go
out in one transfer; REM falls by n; SEQ advances only where REM reaches 0; CUR does not move; an `err` leaves REM; with no
answer exactly these bytes are outstanding, and nothing else changes. -/
def Obligations.FillAndPixelChunks : Prop :=
  ∀ (s : State) (rest : List Answer) (src : Src) (bs : List Byte), s.pending = none → s.rem ≠ 0 →
    (src = .pat ∧ bs = s.pat.toList.take (min s.rem.toNat 32)) ∨
      (src = .pix ∧ bs = [hi s.color, lo s.color].take (min s.rem.toNat 2)) →
    (s.answers = .ok :: rest →
      ∃ r : Word, r.toNat + bs.length = s.rem.toNat ∧
        runMicroOp (.streamChunk src) s =
          .next { s with
            trace := s.trace ++ [.xfer .data bs .ok], answers := rest, rem := r
            seq := if s.rem.toNat = bs.length then s.seq + 1 else s.seq }) ∧
    (s.answers = .err :: rest →
      runMicroOp (.streamChunk src) s =
        .next (transferFailed { s with trace := s.trace ++ [.xfer .data bs .err], answers := rest })) ∧
    (s.answers = [] → runMicroOp (.streamChunk src) s = .next { s with pending := some (.chunk src bs) })

/-- R144 for a buffer: n = min(REM, CHUNK_MAX) host bytes from CUR, ascending, go out in one transfer; REM falls by n, CUR
rises by n wherever a u32 holds the sum (entry 16), SEQ advances only where REM reaches 0; an `err` leaves REM and CUR;
with no answer exactly these bytes are outstanding, and nothing else changes. -/
def Obligations.BufferChunk : Prop :=
  ∀ (s : State) (rest : List Answer) (n : Nat) (bs : List Byte), s.pending = none → s.rem ≠ 0 →
    n = min s.rem.toNat s.cfg.chunkMax → s.cur.toNat + n ≤ 4294967296 → bs = hostBytes s.mem s.cur.toNat n →
    (s.answers = .ok :: rest →
      ∃ t, runMicroOp (.streamChunk .mem) s = .next t ∧
        t.trace = s.trace ++ [.xfer .data bs .ok] ∧ t.rem.toNat = s.rem.toNat - n ∧
        (s.cur.toNat + n < 4294967296 → t.cur.toNat = s.cur.toNat + n) ∧
        t.seq = (if s.rem.toNat = n then s.seq + 1 else s.seq) ∧
        t = { s with
          trace := t.trace, answers := rest, rem := t.rem, cur := t.cur, seq := t.seq, freeDraws := t.freeDraws }) ∧
    (s.answers = .err :: rest →
      runMicroOp (.streamChunk .mem) s =
        .next (transferFailed { s with trace := s.trace ++ [.xfer .data bs .err], answers := rest })) ∧
    (s.answers = [] → runMicroOp (.streamChunk .mem) s = .next { s with pending := some (.chunk .mem bs) })

/-- R144: streamChunk with REM = 0 sends nothing and advances SEQ. -/
def Obligations.EmptyStreamSendsNothing : Prop :=
  ∀ (src : Src) (s : State), s.rem = 0 → runMicroOp (.streamChunk src) s = .next { s with seq := s.seq + 1 }

/-- R146: wait records Wait(ms), and SEQ advances once the DELAY returns; until then the wait is outstanding. DC keeps its
level. -/
def Obligations.WaitRecordsAndHolds : Prop :=
  ∀ (ms : Nat) (s : State), s.pending = none →
    (∀ n, s.delayReturns = n + 1 →
      runMicroOp (.wait ms) s =
        .next { s with trace := s.trace ++ [.wait ms], delayReturns := n, seq := s.seq + 1 }) ∧
    (s.delayReturns = 0 →
      runMicroOp (.wait ms) s = .next { s with trace := s.trace ++ [.wait ms], pending := some (.wait ms) })

/-- R147: acquire stands only at step 0 of INIT; it records its answer; on `err` it responds ERR_ACQUIRE and LC stays as
it is; with no answer it is outstanding. -/
def Obligations.AcquireAnswersOrEndsInit : Prop :=
  (∀ (o : Op) (s : State) (n : Nat), (microProgram o s)[n]? = some .acquire → o = .init ∧ n = 0) ∧
  ∀ (s : State) (rest : List Answer), s.pending = none →
    (s.answers = .ok :: rest →
      runMicroOp .acquire s =
        .next { s with trace := s.trace ++ [.acquire .ok], answers := rest, seq := s.seq + 1 }) ∧
    (s.answers = .err :: rest →
      runMicroOp .acquire s =
        .next { s with
          trace := s.trace ++ [.acquire .err], answers := rest, resp := some .errAcquire, busy := false
          responses := s.responses ++ [.errAcquire] }) ∧
    (s.answers = [] → runMicroOp .acquire s = .next { s with pending := some .acquire })

/-- R148 and R267: release records Release and advances SEQ; respond sets RESP, clears BUSY, and SEQ keeps its value. LC
changes only where the micro-program says so. -/
def Obligations.ReleaseAndRespond : Prop :=
  ∀ (s : State) (v : Lc),
    runMicroOp .release s = .next { s with trace := s.trace ++ [.release], seq := s.seq + 1 } ∧
    runMicroOp (.respond none) s =
      .next { s with resp := some .success, busy := false, responses := s.responses ++ [.success] } ∧
    runMicroOp (.respond (some v)) s =
      .next { s with lc := v, resp := some .success, busy := false, responses := s.responses ++ [.success] }

/-- R314: an outstanding call that is not answered holds the ENGINE: the step changes nothing (that a held step answers the
same state is the model's, entry 14). Its answer, whenever it comes, completes it: a unit, a chunk, an acquisition (R141,
R142, R144, R147, R151) or a wait (R146). A step of the TRANSPORT gives one answer more and one of the DELAY one return
more, and nothing else changes (the list and the count are the model's, entries 5, 6 and 9). -/
def Obligations.HeldUntilAnswered : Prop :=
  ∀ s : State, configOk s = true → s.fault = none → s.port = none →
    (∀ p, s.host = [] → s.pending = some p →
      ((∀ ms, p ≠ .wait ms) → s.answers = [] → step s = .next s) ∧
      ((∃ ms, p = .wait ms) → s.delayReturns = 0 → step s = .next s) ∧
      (∀ l b rest, p = .unit l b →
        (s.answers = .ok :: rest →
          step s =
            .next { s with
              pending := none, answers := rest, trace := s.trace ++ [.xfer l [b] .ok], seq := s.seq + 1 }) ∧
        (s.answers = .err :: rest →
          step s =
            .next (transferFailed { s with
              pending := none, answers := rest, trace := s.trace ++ [.xfer l [b] .err] }))) ∧
      (∀ src bs rest, p = .chunk src bs → bs.length ≤ s.rem.toNat →
        (s.answers = .ok :: rest →
          ∃ (r c : Word) (draws : Nat),
            step s =
              .next { s with
                pending := none, answers := rest, trace := s.trace ++ [.xfer .data bs .ok], rem := r, cur := c
                seq := if s.rem.toNat = bs.length then s.seq + 1 else s.seq, freeDraws := draws } ∧
            r.toNat + bs.length = s.rem.toNat ∧ (src ≠ .mem → c = s.cur ∧ draws = s.freeDraws) ∧
            (src = .mem → s.cur.toNat + bs.length < 4294967296 →
              c.toNat = s.cur.toNat + bs.length ∧ draws = s.freeDraws)) ∧
        (s.answers = .err :: rest →
          step s =
            .next (transferFailed { s with
              pending := none, answers := rest, trace := s.trace ++ [.xfer .data bs .err] }))) ∧
      (∀ rest, p = .acquire →
        (s.answers = .ok :: rest →
          step s =
            .next { s with
              pending := none, answers := rest, trace := s.trace ++ [.acquire .ok], seq := s.seq + 1 }) ∧
        (s.answers = .err :: rest →
          step s =
            .next { s with
              pending := none, answers := rest, trace := s.trace ++ [.acquire .err], resp := some .errAcquire
              busy := false, responses := s.responses ++ [.errAcquire] })) ∧
      (∀ ms n, p = .wait ms → s.delayReturns = n + 1 →
        step s = .next { s with pending := none, delayReturns := n, seq := s.seq + 1 })) ∧
    (∀ r rest, s.host = .answer r :: rest → step s = .next { s with answers := s.answers ++ [r], host := rest }) ∧
    ∀ rest, s.host = .wake :: rest → step s = .next { s with delayReturns := s.delayReturns + 1, host := rest }

/-! ## Whole-machine rules -/

/-- Every step keeps host memory in its canonical form. -/
def Obligations.StepKeepsMemoryCanonical : Prop :=
  ∀ s t : State, Memory.wf s.mem = true → step s = .next t → Memory.wf t.mem = true

/-- A write of host memory by the outside world is read back there, and every other byte is as before (R72, R82). -/
def Obligations.HostWriteReadsBack : Prop :=
  ∀ (s : State) (a : Word) (b : Byte) (rest : List HostMove),
    configOk s = true → s.fault = none → s.port = none → s.host = .poke a b :: rest → Memory.wf s.mem = true →
    ∃ t, step s = .next t ∧ Memory.read t.mem a.toNat = b ∧
      ∀ c, c ≠ a.toNat → Memory.read t.mem c = Memory.read s.mem c

/-- Every step keeps the running-request invariant: SEQ stays inside the micro-program, LC fits the request, an
outstanding call is the one SEQ makes, and the drawing registers fit (R32, R34, R36, R40, R42). -/
def Obligations.StepKeepsRequestInvariant : Prop :=
  ∀ s t : State, RequestInv s → step s = .next t → RequestInv t

/-- From a state that meets the running-request invariant, with FAULT = none, the step answers a next state: no
micro-program runs out (R34), no chunk passes the top of memory (R77), no instruction is refused (R276). Where the ENGINE
is held or the block waits, that next state is the same state by the model's choice (entry 14): the spec has no step
there (R260, R314). -/
def Obligations.RequestInvariantNeverSticks : Prop :=
  ∀ s : State, RequestInv s → s.fault = none → ∃ t, step s = .next t

/-- Every step keeps every transfer legal: a command transfer is one of the eleven bytes, a data transfer has 1 to CHUNK_MAX
bytes (R106, R116, R307, R52.4). -/
def Obligations.StepKeepsTransfersLegal : Prop :=
  ∀ s t : State, TransferInv s → step s = .next t → TransferInv t

/-- Every step keeps the select-line discipline: each transfer in TRACE went out at the level last driven, and DC is that
level (R52.1, R149, R305). -/
def Obligations.StepKeepsSelectLine : Prop :=
  ∀ s t : State, LineInv s → step s = .next t → LineInv t

/-- Every step keeps the waits of INIT (R304): after a delivered SWRESET, SLPOUT, INVON (of INIT), NORON or DISPON, and after
COLMOD's delivered data byte, the very next event of TRACE is the wait, of 150, 500, 10, 10, 500 and 10 ms. -/
def Obligations.StepKeepsInitWaits : Prop :=
  ∀ s t : State, WaitInv s → step s = .next t → WaitInv t

/-- Every step keeps ACQ in agreement with TRACE: the transport is held exactly where the last of its acquisition and
release events is `Acquire(ok)`; between UNINIT's two micro-operations it is released already (R44, R201, R212). -/
def Obligations.StepKeepsTransportHeld : Prop :=
  ∀ s t : State, HeldInv s → step s = .next t → HeldInv t

/-- Every step keeps window before pixel data, whatever the answers: while a drawing request runs TRACE ends with the units
of its window-set sent so far, then the whole window-set of X0 to Y1 followed by delivered data alone; and the data
delivered and REM make up 2*W*H bytes, or LEN bytes for a buffer (R160, R173, R175, R306). -/
def Obligations.StepKeepsWindowBeforePixels : Prop :=
  ∀ s t : State, DrawInv s → step s = .next t → DrawInv t

/-- TRACE only grows, and the configuration and the capability registers are never written: a step that is no reset appends
to TRACE; every step, reset included, keeps the configuration; and CAP_W and CAP_H read PANEL_W and PANEL_H in every state,
before the step and after (R47, R48, R49, R216). -/
def Obligations.TraceGrowsConfigurationStays : Prop :=
  (∀ s : State, capW s = s.cfg.panelW ∧ capH s = s.cfg.panelH) ∧
  ∀ s t : State, step s = .next t →
    t.cfg = s.cfg ∧ capW t = capW s ∧ capH t = capH s ∧ (noReset s → ∃ es, t.trace = s.trace ++ es)

/-- Who writes what (R32, R41, R70, R43): in a step that is no reset, LC changes only where OP is INIT's or UNINIT's, and, in
states of the running-request invariant, only while that request runs; PAT only when a RECT_DRAW is taken from the port;
host memory only by the outside world's write; RST never; and the responses received only grow. The record of the
requests taken (entry 21) grows only by the request on the port. A reset keeps host memory, the coming answers and the
moves after it, and no request or response of before it is one of the new run's (the model's choice, entry 27). -/
def Obligations.WritersOfSharedState : Prop :=
  (∀ s t : State, step s = .next t → noReset s →
    (t.lc ≠ s.lc → (s.op = 1 ∨ s.op = 2) ∧ (RequestInv s → s.busy = true)) ∧
    (t.pat ≠ s.pat → ∃ d x y w h c, s.port = some d ∧ decodeRequest d = .ok (.rectDraw x y w h c)) ∧
    (t.mem ≠ s.mem → ∃ a b rest, s.host = .poke a b :: rest) ∧
    t.rst = s.rst ∧ (∃ rs, t.responses = s.responses ++ rs) ∧
    (t.requests ≠ s.requests → ∃ d, s.port = some d ∧ t.requests = s.requests ++ [d])) ∧
  ∀ (s t : State) (rest : List HostMove), step s = .next t → s.host = .reset :: rest →
    t.mem = s.mem ∧ t.answers = s.answers ∧ t.delayReturns = s.delayReturns ∧ t.host = rest ∧ t.requests = [] ∧
      t.responses = []

/-- R149: in a step that is no reset, DC changes only at writeCommand, writeData, streamBegin and streamEnd, and never
while a call is outstanding. -/
def Obligations.DcChangesOnlyAtFourMicroOperations : Prop :=
  ∀ s t : State, step s = .next t → noReset s → t.dc ≠ s.dc →
    s.pending = none ∧ s.busy = true ∧
    ((∃ b, microOp s = some (.writeCommand b)) ∨ (∃ b, microOp s = some (.writeData b)) ∨
      microOp s = some .streamBegin ∨ microOp s = some .streamEnd)

/-- R34: in a step of a running request, BUSY before and after, SEQ stays or advances by exactly 1. -/
def Obligations.SeqAdvancesByOne : Prop :=
  ∀ s t : State, step s = .next t → noReset s → s.busy = true → t.seq = s.seq ∨ t.seq = s.seq + 1

/-! ## Whole requests -/

/-- R208, R202 and R204 where every answer is `ok`: INIT is accepted in OFF; its 27 micro-operations emit exactly R202's
events, which are 1 Acquire(ok), 19 transfers, 19 select-line events and 6 waits that sum to 1180 ms, and, under the
reference window, R208's bytes; LC becomes READY, and it responds SUCCESS. -/
def Obligations.InitRunsToReady : Prop :=
  ∀ (s : State) (rest : List Answer) (n : Nat), idle s → s.lc = .off →
    s.answers = List.replicate 20 .ok ++ rest → s.delayReturns = n + 6 →
    (∃ t0 t, exec .init s = .next t0 ∧ steps 27 t0 = .next t ∧
      t.trace = s.trace ++ initEvents s.cfg ∧ t.lc = .ready ∧ t.resp = some .success ∧ t.busy = false ∧
      t.fault = none ∧ t.dc = some .cmd ∧ t.answers = rest ∧ t.delayReturns = n ∧
      t.responses = s.responses ++ [.success]) ∧
    (initEvents s.cfg).count (.acquire .ok) = 1 ∧ transferCount (initEvents s.cfg) = 19 ∧
    dcCount (initEvents s.cfg) = 19 ∧ waitsOf (initEvents s.cfg) = [150, 500, 10, 10, 10, 500] ∧
    (waitsOf (initEvents s.cfg)).sum = 1180 ∧
    (s.cfg.initCol0 = 0 → s.cfg.initCol1 = 240 → s.cfg.initRow0 = 80 → s.cfg.initRow1 = 240 →
      sentBytes (initEvents s.cfg) =
        [0x01, 0x11, 0x3A, 0x55, 0x36, 0x00, 0x2A, 0x00, 0x00, 0x00, 0xF0, 0x2B, 0x00, 0x50, 0x00, 0xF0, 0x21, 0x13, 0x29])

/-- R206: under IGNORE, INIT sends its whole sequence whatever the transfers answer, each recorded with its answer, and
completes with SUCCESS in READY. -/
def Obligations.InitUnderIgnoreCompletes : Prop :=
  ∀ (s : State) (as rest : List Answer) (n : Nat), idle s → s.lc = .off → s.cfg.initErrorPolicy = .ignore →
    as.length = 19 → s.answers = .ok :: as ++ rest → s.delayReturns = n + 6 →
    ∃ t0 t, exec .init s = .next t0 ∧ steps 27 t0 = .next t ∧ t.trace = s.trace ++ answered (initEvents s.cfg) as ∧
      t.lc = .ready ∧ t.resp = some .success ∧ t.busy = false ∧ t.fault = none ∧ t.answers = rest ∧
      t.delayReturns = n ∧ t.responses = s.responses ++ [.success]

/-- R205: under ABORT, the first transfer of INIT that answers `err` stops the sequence at once: TRACE ends with it, LC is
INIT_FAILED, and INIT responds ERR_TRANSFER. That the waiting block's step then answers the same state is the model's
(entry 14). -/
def Obligations.InitUnderAbortStopsAtFirstError : Prop :=
  ∀ (s : State) (as rest : List Answer), idle s → s.lc = .off → s.cfg.initErrorPolicy = .abort →
    as.length = 19 → .err ∈ as → s.answers = .ok :: as ++ rest → 6 ≤ s.delayReturns →
    ∃ t0 t k, exec .init s = .next t0 ∧ k ≤ 25 ∧ steps k t0 = .next t ∧
      t.trace = s.trace ++ untilError (initEvents s.cfg) as ∧ t.lc = .initFailed ∧ t.resp = some .errTransfer ∧
      t.busy = false ∧ t.fault = none ∧ t.responses = s.responses ++ [.errTransfer] ∧ step t = .next t

/-- The first eleven micro-operations of each drawing request, answered `ok`, are R160's window-set: 11 one-byte transfers,
the coordinates as they stand in X0 to Y1, and SEQ at 11 (R160, R162, R164). -/
def Obligations.WindowSetRuns : Prop :=
  ∀ (s : State) (rest : List Answer), configOk s = true → engineReady s → s.port = none → s.host = [] →
    s.op = 3 ∨ s.op = 4 ∨ s.op = 5 → s.seq = 0 → s.answers = List.replicate 11 .ok ++ rest →
    steps 11 s =
      .next { s with
        seq := 11, dc := some .cmd, answers := rest, trace := s.trace ++ windowEvents s.x0 s.y0 s.x1 s.y1 } ∧
    transferCount (windowEvents s.x0 s.y0 s.x1 s.y1) = 11 ∧ dcCount (windowEvents s.x0 s.y0 s.x1 s.y1) = 11 ∧
    sentBytes (windowEvents s.x0 s.y0 s.x1 s.y1) =
      [0x2A, hi s.x0, lo s.x0, hi s.x1, lo s.x1, 0x2B, hi s.y0, lo s.y0, hi s.y1, lo s.y1, 0x2C]

/-- RECT_DRAW with every answer `ok` (R171, R173, R178): the window-set, then q chunks of 32 bytes and, if any bytes are
left, one chunk of the remainder, between one Dc(DATA) and one Dc(CMD); it responds SUCCESS and LC stays READY. -/
def Obligations.RectDrawRuns : Prop :=
  ∀ (x y w h c x1 y1 : Half) (s : State) (rest : List Answer), idle s → s.lc = .ready →
    1 ≤ w.toNat → 1 ≤ h.toNat → x1.toNat + 1 = x.toNat + w.toNat → y1.toNat + 1 = y.toNat + h.toNat →
    2 * w.toNat * h.toNat < 4294967296 →
    s.answers = List.replicate (11 + (fillChunks c (w.toNat * h.toNat)).length) .ok ++ rest →
    ∃ t0 t, exec (.rectDraw x y w h c) s = .next t0 ∧
      steps (14 + (fillChunks c (w.toNat * h.toNat)).length) t0 = .next t ∧
      t.trace = s.trace ++ windowEvents x y x1 y1 ++ streamEvents (fillChunks c (w.toNat * h.toNat)) ∧
      t.resp = some .success ∧ t.busy = false ∧ t.lc = .ready ∧ t.fault = none ∧ t.dc = some .cmd ∧ t.rem = 0 ∧
      t.answers = rest ∧ t.responses = s.responses ++ [.success]

/-- BUFFER_DRAW with every answer `ok` (R174, R175, R176): the window-set, then the buffer in chunks of CHUNK_MAX bytes and
the remainder, as it lies in host memory; under UNCHECKED for every LEN, where LEN = 0 sends no chunk. -/
def Obligations.BufferDrawRuns : Prop :=
  ∀ (x y w h x1 y1 : Half) (p l : Word) (s : State) (rest : List Answer) (chunks : List (List Byte)),
    idle s → s.lc = .ready → 1 ≤ w.toNat → 1 ≤ h.toNat →
    x1.toNat + 1 = x.toNat + w.toNat → y1.toNat + 1 = y.toNat + h.toNat → p.toNat + l.toNat ≤ 4294967296 →
    (s.cfg.lengthCheck = .fault → l.toNat = 2 * w.toNat * h.toNat) →
    chunks = bufferChunks s.mem p.toNat l.toNat s.cfg.chunkMax →
    s.answers = List.replicate (11 + chunks.length) .ok ++ rest →
    ∃ t0 t, exec (.bufferDraw x y w h p l) s = .next t0 ∧ steps (14 + max 1 chunks.length) t0 = .next t ∧
      t.trace = s.trace ++ windowEvents x y x1 y1 ++ streamEvents chunks ∧
      t.resp = some .success ∧ t.busy = false ∧ t.lc = .ready ∧ t.fault = none ∧ t.dc = some .cmd ∧ t.rem = 0 ∧
      t.answers = rest ∧ t.responses = s.responses ++ [.success]

/-- The schedules' laws (R173, R175): a fill of T = 2 * pixels bytes has ceil(T/32) chunks, none empty and none over 32
bytes, and T bytes in all; a buffer of LEN bytes has ceil(LEN/CHUNK_MAX) chunks, none empty and none over CHUNK_MAX, and
together they are exactly the host bytes [PTR, PTR+LEN). -/
def Obligations.ChunkScheduleLaws : Prop :=
  (∀ (c : Half) (pixels : Nat),
    (fillChunks c pixels).length = (2 * pixels + 31) / 32 ∧
    (∀ bs ∈ fillChunks c pixels, 1 ≤ bs.length ∧ bs.length ≤ 32) ∧
    (fillChunks c pixels).flatten = colorBytes c pixels) ∧
  ∀ (m : Memory) (ptr len chunkMax : Nat), 1 ≤ chunkMax →
    (bufferChunks m ptr len chunkMax).length = (len + chunkMax - 1) / chunkMax ∧
    (∀ bs ∈ bufferChunks m ptr len chunkMax, 1 ≤ bs.length ∧ bs.length ≤ chunkMax) ∧
    (bufferChunks m ptr len chunkMax).flatten = hostBytes m ptr len

/-- PIXEL_DRAW with every answer `ok` (R177): the window-set of (x, y, x, y), then one 2-byte transfer of the colour, high
byte first; its run leaves the same TRACE as that of RECT_DRAW x, y, 1, 1 from the same state. -/
def Obligations.PixelDrawRuns : Prop :=
  ∀ (x y c : Half) (s : State) (rest : List Answer), idle s → s.lc = .ready →
    s.answers = List.replicate 12 .ok ++ rest →
    ∃ t0 t u0 u, exec (.pixelDraw x y c) s = .next t0 ∧ steps 15 t0 = .next t ∧
      exec (.rectDraw x y 1 1 c) s = .next u0 ∧ steps 15 u0 = .next u ∧
      t.trace = s.trace ++ windowEvents x y x y ++ streamEvents [[hi c, lo c]] ∧ u.trace = t.trace ∧
      t.resp = some .success ∧ t.busy = false ∧ t.lc = .ready ∧ t.fault = none ∧ t.answers = rest ∧ t.pat = s.pat

/-- ROTATION_SET with every answer `ok` (R213, R10, R113): C:36 and one data byte, the entry of the configured MADCTL_ROT
for ORIENT in the column of TAB_COLOR. Under R113's table that byte is, for 0°, 90°, 180° and 270°, C0, A0, 00, 60 for
BLACKTAB and C8, A8, 08, 68 for every other variant. -/
def Obligations.RotationSetRuns : Prop :=
  ∀ (o : BitVec 2) (s : State) (rest : List Answer) (byte : Byte), idle s → s.lc = .ready →
    s.answers = .ok :: .ok :: rest →
    byte =
      (if s.cfg.tabColor = .blacktab then
        (if o = 0 then s.cfg.madctlRot.rgb0 else if o = 1 then s.cfg.madctlRot.rgb90
          else if o = 2 then s.cfg.madctlRot.rgb180 else s.cfg.madctlRot.rgb270)
      else
        (if o = 0 then s.cfg.madctlRot.bgr0 else if o = 1 then s.cfg.madctlRot.bgr90
          else if o = 2 then s.cfg.madctlRot.bgr180 else s.cfg.madctlRot.bgr270)) →
    (∃ t0 t, exec (.rotationSet o) s = .next t0 ∧ steps 3 t0 = .next t ∧
      t.trace = s.trace ++ commandEvents 0x36 ++ dataEvents byte ∧ t.resp = some .success ∧ t.busy = false ∧
      t.lc = .ready ∧ t.fault = none ∧ t.dc = some .data ∧ t.answers = rest) ∧
    (s.cfg.madctlRot = MadctlRot.default →
      byte =
        (if s.cfg.tabColor = .blacktab then
          (if o = 0 then 0xC0 else if o = 1 then 0xA0 else if o = 2 then 0x00 else 0x60)
        else (if o = 0 then 0xC8 else if o = 1 then 0xA8 else if o = 2 then 0x08 else 0x68)))

/-- DISPLAY_INVERT (R214), UNINIT (R212) and DISPLAY (R215) run to their response: C:21 for INV = 1 and C:20 for INV = 0;
`Release`, with LC = OFF after, and DC not driven; nothing at all. -/
def Obligations.InvertUninitDisplayRun : Prop :=
  ∀ (s : State), idle s →
    (∀ (b : Bool) (rest : List Answer), s.lc = .ready → s.answers = .ok :: rest →
      ∃ t0 t, exec (.displayInvert b) s = .next t0 ∧ steps 2 t0 = .next t ∧
        t.trace = s.trace ++ commandEvents (if b then 0x21 else 0x20) ∧ t.resp = some .success ∧ t.busy = false ∧
        t.lc = .ready ∧ t.fault = none ∧ t.answers = rest) ∧
    (s.lc = .ready ∨ s.lc = .initFailed →
      ∃ t0 t, exec .uninit s = .next t0 ∧ steps 2 t0 = .next t ∧ t.trace = s.trace ++ [.release] ∧
        t.resp = some .success ∧ t.busy = false ∧ t.lc = .off ∧ t.fault = none ∧ t.dc = s.dc) ∧
    ∃ t0 t, exec .display s = .next t0 ∧ steps 1 t0 = .next t ∧ t.trace = s.trace ∧ t.resp = some .success ∧
      t.busy = false ∧ t.lc = s.lc ∧ t.fault = none ∧ t.dc = s.dc

/-- After a complete draw over any earlier trace, the observer's window is the one drawn, the bytes it received are the
bytes it expected, and it is not desynchronised: for a fill of the window, and for a buffer of the window's length (R51,
R52.3, R163). -/
def Obligations.CompleteDrawLeavesPanelInStep : Prop :=
  ∀ (t : List Event) (x0 y0 x1 y1 : Half) (chunks : List (List Byte)), x0 ≤ x1 → y0 ≤ y1 →
    chunks.flatten.length = (x1.toNat - x0.toNat + 1) * (y1.toNat - y0.toNat + 1) * 2 →
    ∃ o, observe (t ++ windowEvents x0 y0 x1 y1 ++ streamEvents chunks) = o ∧
      o.win = some ⟨x0, y0, x1, y1⟩ ∧ o.armed = true ∧ o.got = o.expect ∧
      o.expect = (x1.toNat - x0.toNat + 1) * (y1.toNat - y0.toNat + 1) * 2 ∧ o.desync = false

/-- A transfer that fails inside a window-set (the byte of CASET, RASET or RAMWR, or a parameter byte of CASET or RASET)
or inside a stream, and a stream of another length than the window's, leave the observer desynchronised (R51, R176,
R266). -/
def Obligations.BrokenDrawDesynchronises : Prop :=
  (∀ (t : List Event) (x0 y0 x1 y1 : Half) (chunks : List (List Byte)), x0 ≤ x1 → y0 ≤ y1 →
    chunks.flatten.length ≠ (x1.toNat - x0.toNat + 1) * (y1.toNat - y0.toNat + 1) * 2 →
    (observe (t ++ windowEvents x0 y0 x1 y1 ++ streamEvents chunks)).desync = true) ∧
  (∀ (t : List Event) (x0 y0 x1 y1 : Half) (chunks : List (List Byte)) (bs : List Byte),
    (observe
      (t ++ windowEvents x0 y0 x1 y1 ++ [.dc .data] ++ chunks.map (fun c => .xfer .data c .ok) ++
        [.xfer .data bs .err])).desync = true) ∧
  (∀ (t : List Event) (cmd : Byte), cmd = 0x2A ∨ cmd = 0x2B ∨ cmd = 0x2C →
    (observe (t ++ [.dc .cmd, .xfer .cmd [cmd] .err])).desync = true) ∧
  ∀ (t : List Event) (cmd : Byte) (sent : List Byte) (b : Byte), cmd = 0x2A ∨ cmd = 0x2B → sent.length < 4 →
    (observe (t ++ commandEvents cmd ++ sent.flatMap dataEvents ++ [.dc .data, .xfer .data [b] .err])).desync = true
end

