-- ==== Sys2Proof/Laws/Codec.lean ====
section
/-! SUPPORT. The fields of an encoded word, and the wire commands' codes. -/

namespace Sys2Proof.Laws

/-- A field of a word, as a number. -/
theorem bits_toNat (n lo : Nat) (v : Word) : (bits n lo v).toNat = v.toNat / 2 ^ lo % 2 ^ n := by
  simp [bits, Nat.shiftRight_eq_div_pow]

theorem word0_toNat (c : Half) (v : Bool) (o : BitVec 2) (p : BitVec 4) :
    (word0 c v o p).toNat = c.toNat * 65536 + v.toNat * 1024 + o.toNat * 256 + p.toNat := by
  have := c.isLt
  have := v.toNat_le
  have := o.isLt
  have := p.isLt
  simp only [word0, BitVec.toNat_ofNat]
  omega

theorem word2_toNat (h l : Half) : (word2 h l).toNat = h.toNat * 65536 + l.toNat := by
  have := h.isLt
  have := l.isLt
  simp only [word2, BitVec.toNat_ofNat]
  omega

section Fields

variable (c : Half) (v : Bool) (o : BitVec 2) (p : BitVec 4) (h l : Half)

@[simp] theorem bits_op : bits 4 0 (word0 c v o p) = p := by
  have := p.isLt
  apply BitVec.eq_of_toNat_eq
  rw [bits_toNat, word0_toNat]
  omega

@[simp] theorem bits_rsv0 : bits 4 4 (word0 c v o p) = 0 := by
  have := p.isLt
  apply BitVec.eq_of_toNat_eq
  rw [bits_toNat, word0_toNat]
  simp only [BitVec.toNat_zero, BitVec.ofNat_eq_ofNat]
  omega

@[simp] theorem bits_orient : bits 2 8 (word0 c v o p) = o := by
  have := p.isLt
  have := o.isLt
  apply BitVec.eq_of_toNat_eq
  rw [bits_toNat, word0_toNat]
  omega

@[simp] theorem bits_rsv1 : bits 5 11 (word0 c v o p) = 0 := by
  have := p.isLt
  have := o.isLt
  have := v.toNat_le
  apply BitVec.eq_of_toNat_eq
  rw [bits_toNat, word0_toNat]
  simp only [BitVec.toNat_zero, BitVec.ofNat_eq_ofNat]
  omega

@[simp] theorem bits_color : bits 16 16 (word0 c v o p) = c := by
  have := p.isLt
  have := o.isLt
  have := v.toNat_le
  have := c.isLt
  apply BitVec.eq_of_toNat_eq
  rw [bits_toNat, word0_toNat]
  omega

@[simp] theorem bit_inv : (word0 c v o p).getLsbD 10 = v := by
  have := p.isLt
  have := o.isLt
  have hv : (word0 c v o p).toNat / 2 ^ 10 % 2 = v.toNat := by
    rw [word0_toNat]
    cases v <;> simp <;> omega
  rw [BitVec.getLsbD, Nat.testBit_eq_decide_div_mod_eq, hv]
  cases v <;> rfl

@[simp] theorem getElem_inv : (word0 c v o p)[10] = v := bit_inv c v o p

@[simp] theorem bits_low : bits 16 0 (word2 h l) = l := by
  have := l.isLt
  apply BitVec.eq_of_toNat_eq
  rw [bits_toNat, word2_toNat]
  omega

@[simp] theorem bits_high : bits 16 16 (word2 h l) = h := by
  have := l.isLt
  have := h.isLt
  apply BitVec.eq_of_toNat_eq
  rw [bits_toNat, word2_toNat]
  omega

end Fields

/-- The reserved bits are the two reserved fields (R104). -/
theorem reservedZero_iff (d : Descriptor) : d.reservedZero = true ↔ d.rsv0 = 0 ∧ d.rsv1 = 0 := by
  have hmask : ∀ i : Nat, (h : i < 32) → (0xF8F0#32)[i] = decide (4 ≤ i ∧ i < 8 ∨ 11 ≤ i ∧ i < 16) := by decide
  simp only [Descriptor.reservedZero, Descriptor.rsv0, Descriptor.rsv1, beq_iff_eq]
  constructor
  · intro h
    have hz : ∀ i, (d.w0 &&& 0xF8F0#32).getLsbD i = false := by simp [show d.w0 &&& 0xF8F0#32 = 0 from h]
    constructor
    · ext i hi
      have := hz (4 + i)
      rcases (by omega : i = 0 ∨ i = 1 ∨ i = 2 ∨ i = 3) with rfl | rfl | rfl | rfl <;>
        simpa [bits, BitVec.getLsbD_and] using this
    · ext i hi
      have := hz (11 + i)
      rcases (by omega : i = 0 ∨ i = 1 ∨ i = 2 ∨ i = 3 ∨ i = 4) with rfl | rfl | rfl | rfl | rfl <;>
        simpa [bits, BitVec.getLsbD_and] using this
  · rintro ⟨ha, hb⟩
    have ha' : ∀ i, (bits 4 4 d.w0).getLsbD i = false := by simp [ha]
    have hb' : ∀ i, (bits 5 11 d.w0).getLsbD i = false := by simp [hb]
    ext i hi
    simp only [BitVec.getElem_and, BitVec.ofNat_eq_ofNat, BitVec.getElem_zero, hmask i hi]
    by_cases hh : 4 ≤ i ∧ i < 8 ∨ 11 ≤ i ∧ i < 16
    · rcases hh with hh | hh
      · have := ha' (i - 4)
        simp [bits, show i - 4 < 4 by omega, show 4 + (i - 4) = i by omega] at this
        simp [← BitVec.getLsbD_eq_getElem, this]
      · have := hb' (i - 11)
        simp [bits, show i - 11 < 5 by omega, show 11 + (i - 11) = i by omega] at this
        simp [← BitVec.getLsbD_eq_getElem, this]
    · simp [hh]

/-- A legal descriptor by its fields (R102, R104). -/
theorem wf_iff (d : Descriptor) : d.wf = true ↔ d.rsv0 = 0 ∧ d.rsv1 = 0 ∧ 1 ≤ d.op.toNat ∧ d.op.toNat ≤ 8 := by
  have hop : d.op.toNat = d.w0.toNat % 16 := by
    rw [Descriptor.op, bits_toNat]
    simp
  simp only [Descriptor.wf, Bool.and_eq_true, reservedZero_iff, Descriptor.opDefined, decide_eq_true_eq, hop, and_assoc]

/-- A wire command's byte decodes to it. -/
theorem decodeWire_cmdCode (i : Instr) (h : i.isWire = true) : decodeWire (cmdCode i) = .ok i := by
  cases i <;> first | rfl | cases h

/-- A wire command is encoded as its byte. -/
theorem encode_wire (i : Instr) (h : i.isWire = true) : encode i = .wire (cmdCode i) := by
  cases i <;> first | rfl | cases h

/-- What a decoded byte is: the byte of a wire command. -/
theorem decodeWire_ok {b : Byte} {i : Instr} (h : decodeWire b = .ok i) : i.isWire = true ∧ b = cmdCode i := by
  unfold decodeWire at h
  split at h <;>
    first
    | (cases h; exact ⟨rfl, BitVec.eq_of_toNat_eq (by simpa using ‹b.toNat = _›)⟩)
    | cases h

end Sys2Proof.Laws
end

