-- ==== Sys2Proof/Laws/Operands.lean ====
section
/-! SUPPORT. The window checks and what a drawing request latches, as numbers. -/

namespace Sys2Proof.Laws

open Sys2Proof.Machine Sys2Proof.Safety

theorem half_eq_zero {v : Half} : v = 0 ↔ v.toNat = 0 := by
  rw [← BitVec.toNat_inj]
  simp

/-- A window passes exactly where its extents are nonzero and its corners are u16 values (R170). -/
theorem checkWindow_none {x y w h : Half} :
    checkWindow x y w h = none ↔
      1 ≤ w.toNat ∧ 1 ≤ h.toNat ∧ x.toNat + w.toNat ≤ 65536 ∧ y.toNat + h.toNat ≤ 65536 := by
  unfold checkWindow corner
  simp only [half_eq_zero]
  split
  · simp; omega
  · split <;> simp <;> omega

/-- Every other window is F_BAD_WINDOW. -/
theorem checkWindow_bad {x y w h : Half}
    (hw : w.toNat = 0 ∨ h.toNat = 0 ∨ 65536 < x.toNat + w.toNat ∨ 65536 < y.toNat + h.toNat) :
    checkWindow x y w h = some .badWindow := by
  unfold checkWindow corner
  simp only [half_eq_zero]
  split
  · rfl
  · exact if_pos (by omega)

/-- A latched corner is exact. -/
theorem corner_toNat {x w : Half} (hw : 1 ≤ w.toNat) (hx : x.toNat + w.toNat ≤ 65536) :
    (BitVec.ofNat 16 (corner x w)).toNat + 1 = x.toNat + w.toNat := by
  simp only [corner, BitVec.toNat_ofNat]
  omega

theorem checkRect_none {x y w h : Half} (hc : checkWindow x y w h = none) (ht : 2 * w.toNat * h.toNat < 4294967296) :
    checkRect x y w h = none := by
  rw [checkRect, hc]
  exact if_neg (by simpa [totalBytes] using ht)

theorem checkBuffer_none {cfg : Config} {x y w h : Half} {p l : Word} (hc : checkWindow x y w h = none)
    (hl : cfg.lengthCheck = .fault → l.toNat = 2 * w.toNat * h.toNat) (hp : p.toNat + l.toNat ≤ 4294967296) :
    checkBuffer cfg x y w h p l = none := by
  rw [checkBuffer, hc]
  exact (if_neg (fun hn => hn.2 (hl hn.1))).trans (if_neg (by omega))

theorem checkRect_overflow {x y w h : Half} (hc : checkWindow x y w h = none)
    (ht : 4294967296 ≤ 2 * w.toNat * h.toNat) : checkRect x y w h = some .countOverflow := by
  rw [checkRect, hc]
  exact if_pos ht

theorem checkBuffer_length {cfg : Config} {x y w h : Half} {p l : Word} (hc : checkWindow x y w h = none)
    (hl : cfg.lengthCheck = .fault ∧ l.toNat ≠ 2 * w.toNat * h.toNat) :
    checkBuffer cfg x y w h p l = some .lengthMismatch := by
  rw [checkBuffer, hc]
  exact if_pos hl

theorem checkBuffer_wrap {cfg : Config} {x y w h : Half} {p l : Word} (hc : checkWindow x y w h = none)
    (hl : ¬(cfg.lengthCheck = .fault ∧ l.toNat ≠ 2 * w.toNat * h.toNat)) (hp : 4294967296 < p.toNat + l.toNat) :
    checkBuffer cfg x y w h p l = some .bufferWrap := by
  rw [checkBuffer, hc]
  exact (if_neg hl).trans (if_pos hp)

/-- What passing a drawing request's checks says of its window. -/
theorem checkRect_window {x y w h : Half} (hc : checkRect x y w h = none) :
    checkWindow x y w h = none ∧ 2 * w.toNat * h.toNat < 4294967296 := by
  unfold checkRect at hc
  split at hc
  · cases hc
  · split at hc
    · cases hc
    · exact ⟨‹_›, by simp only [totalBytes] at *; omega⟩

theorem checkBuffer_window {cfg : Config} {x y w h : Half} {p l : Word} (hc : checkBuffer cfg x y w h p l = none) :
    checkWindow x y w h = none ∧ p.toNat + l.toNat ≤ 4294967296 := by
  unfold checkBuffer at hc
  split at hc
  · cases hc
  · split at hc
    · cases hc
    · split at hc
      · cases hc
      · exact ⟨‹_›, by omega⟩

/-- An even fill is whole colours. -/
theorem fillBytes_even (c : Half) : ∀ n, fillBytes c (2 * n) = colorBytes c n
  | 0 => rfl
  | n + 1 => by
    rw [show 2 * (n + 1) = 2 * n + 2 by omega, fillBytes, fillBytes_even c n]
    rfl

/-- PAT holds the colour 16 times (R172). -/
theorem fillPattern_toList (c : Half) : (fillPattern c).toList = colorBytes c 16 := by
  rw [← fillBytes_even]
  rfl

theorem length_colorBytes (c : Half) : ∀ n, (colorBytes c n).length = 2 * n
  | 0 => rfl
  | n + 1 => by
    simp only [colorBytes, List.length_cons, length_colorBytes c n]
    omega

theorem colorBytes_add (c : Half) : ∀ a b, colorBytes c (a + b) = colorBytes c a ++ colorBytes c b
  | 0, b => by simp [colorBytes]
  | a + 1, b => by rw [show a + 1 + b = a + b + 1 by omega, colorBytes, colorBytes_add c a b]; rfl

/-- The first bytes of a run of one colour. -/
theorem take_colorBytes (c : Half) {a n : Nat} (h : a ≤ n) : (colorBytes c n).take (2 * a) = colorBytes c a := by
  obtain ⟨k, rfl⟩ := Nat.exists_eq_add_of_le h
  rw [colorBytes_add, ← length_colorBytes c a, List.take_left]

end Sys2Proof.Laws
end

