-- ==== Sys2Proof/Laws/Memory.lean ====
section
/-! SUPPORT. Host memory: the canonical form and the read-after-write laws. -/

namespace Sys2Proof.Laws

open Sys2Proof.Machine Sys2Proof.Safety

theorem wfFrom_of_le {low high : Nat} (h : low ≤ high) :
    ∀ {m : Memory}, Memory.wfFrom high m = true → Memory.wfFrom low m = true
  | [], _ => rfl
  | (a, b) :: rest, hw => by
    simp only [Memory.wfFrom, Bool.and_eq_true, decide_eq_true_eq] at hw ⊢
    exact ⟨⟨⟨by omega, hw.1.1.2⟩, hw.1.2⟩, hw.2⟩

/-- Nothing is listed below the lower bound. -/
theorem read_below {low addr : Nat} (h : addr < low) :
    ∀ {m : Memory}, Memory.wfFrom low m = true → Memory.read m addr = memDefault
  | [], _ => rfl
  | (a, b) :: rest, hw => by
    simp only [Memory.wfFrom, Bool.and_eq_true, decide_eq_true_eq] at hw
    have hne : addr ≠ a := by omega
    simp only [Memory.read, if_neg hne]
    exact read_below (by omega) hw.2

theorem wfFrom_cons {low a : Nat} {b : Byte} {m : Memory} (hl : low ≤ a) (ha : a < 2 ^ Config.addrW)
    (hm : Memory.wfFrom (a + 1) m = true) : Memory.wfFrom low (Memory.cons a b m) = true := by
  unfold Memory.cons
  split
  · exact wfFrom_of_le (by omega) hm
  · rename_i hb
    simp [Memory.wfFrom, hl, ha, hm, hb]

/-- A write keeps the canonical form. -/
theorem wfFrom_write {addr : Nat} {b : Byte} (ha : addr < 2 ^ Config.addrW) :
    ∀ {low : Nat} {m : Memory}, low ≤ addr → Memory.wfFrom low m = true →
      Memory.wfFrom low (Memory.write m addr b) = true
  | low, [], hl, _ => wfFrom_cons hl ha rfl
  | low, (a, c) :: rest, hl, hw => by
    have hw' := hw
    simp only [Memory.wfFrom, Bool.and_eq_true, decide_eq_true_eq] at hw'
    unfold Memory.write
    split
    · refine wfFrom_cons hl ha ?_
      simp only [Memory.wfFrom, Bool.and_eq_true, decide_eq_true_eq]
      exact ⟨⟨⟨by omega, hw'.1.1.2⟩, hw'.1.2⟩, hw'.2⟩
    · split
      · exact wfFrom_cons hw'.1.1.1 hw'.1.1.2 hw'.2
      · simp only [Memory.wfFrom, Bool.and_eq_true, decide_eq_true_eq]
        exact ⟨hw'.1, wfFrom_write ha (by omega) hw'.2⟩

theorem wf_write {m : Memory} {addr : Nat} {b : Byte} (ha : addr < 2 ^ Config.addrW) (hm : Memory.wf m = true) :
    Memory.wf (Memory.write m addr b) = true := wfFrom_write ha (Nat.zero_le _) hm

theorem read_cons (a : Nat) (b : Byte) {m : Memory} (hm : Memory.wfFrom (a + 1) m = true) (addr : Nat) :
    Memory.read (Memory.cons a b m) addr = if addr = a then b else Memory.read m addr := by
  unfold Memory.cons
  split
  · rename_i hb
    split
    · rename_i h
      rw [read_below (by omega) hm, hb]
    · rfl
  · rfl

/-- What a byte reads as after a write. -/
theorem read_write {addr : Nat} {b : Byte} :
    ∀ {low : Nat} {m : Memory}, Memory.wfFrom low m = true → ∀ c,
      Memory.read (Memory.write m addr b) c = if c = addr then b else Memory.read m c
  | _, [], _, c => by simpa [Memory.write] using read_cons addr b (m := []) rfl c
  | low, (a, d) :: rest, hw, c => by
    have hw' := hw
    simp only [Memory.wfFrom, Bool.and_eq_true, decide_eq_true_eq] at hw'
    unfold Memory.write
    split
    · refine read_cons addr b ?_ c
      simp only [Memory.wfFrom, Bool.and_eq_true, decide_eq_true_eq]
      exact ⟨⟨⟨by omega, hw'.1.1.2⟩, hw'.1.2⟩, hw'.2⟩
    · split
      · rename_i h
        subst h
        rw [read_cons _ _ hw'.2]
        by_cases hc : c = addr <;> simp [Memory.read, hc]
      · rename_i h1 h2
        simp only [Memory.read, read_write hw'.2 c]
        by_cases hc : c = a
        · have : c ≠ addr := by omega
          simp [hc, show a ≠ addr by omega]
        · simp [hc]

theorem length_readRange (m : Memory) : ∀ (n addr : Nat), (Memory.readRange m addr n).length = n
  | 0, _ => rfl
  | n + 1, addr => by simp [Memory.readRange, length_readRange m n]

/-- A chunk's bytes are the host bytes at ascending addresses (R72). -/
theorem readRange_eq (m : Memory) : ∀ (n addr : Nat), Memory.readRange m addr n = hostBytes m addr n
  | 0, _ => rfl
  | n + 1, addr => by
    rw [Memory.readRange, readRange_eq m n, hostBytes, hostBytes, List.range_succ_eq_map]
    simp [Nat.add_comm, Nat.add_left_comm]

/-- Consecutive host bytes join. -/
theorem hostBytes_append (m : Memory) (addr a b : Nat) :
    hostBytes m addr a ++ hostBytes m (addr + a) b = hostBytes m addr (a + b) := by
  simp [hostBytes, List.range_add, Nat.add_assoc]

end Sys2Proof.Laws
end

