-- ==== Sys2Proof/Laws/State.lean ====
section
/-! SUPPORT. One lemma per field per update of State, each true by rfl. -/

namespace Sys2Proof.Laws

open Sys2Proof.Machine

/-! ## emit -/

@[simp] theorem emit_cfg (e : Event) (s : State) : (emit e s).cfg = s.cfg := rfl
@[simp] theorem emit_lc (e : Event) (s : State) : (emit e s).lc = s.lc := rfl
@[simp] theorem emit_busy (e : Event) (s : State) : (emit e s).busy = s.busy := rfl
@[simp] theorem emit_seq (e : Event) (s : State) : (emit e s).seq = s.seq := rfl
@[simp] theorem emit_op (e : Event) (s : State) : (emit e s).op = s.op := rfl
@[simp] theorem emit_x0 (e : Event) (s : State) : (emit e s).x0 = s.x0 := rfl
@[simp] theorem emit_y0 (e : Event) (s : State) : (emit e s).y0 = s.y0 := rfl
@[simp] theorem emit_x1 (e : Event) (s : State) : (emit e s).x1 = s.x1 := rfl
@[simp] theorem emit_y1 (e : Event) (s : State) : (emit e s).y1 = s.y1 := rfl
@[simp] theorem emit_color (e : Event) (s : State) : (emit e s).color = s.color := rfl
@[simp] theorem emit_ptr (e : Event) (s : State) : (emit e s).ptr = s.ptr := rfl
@[simp] theorem emit_len (e : Event) (s : State) : (emit e s).len = s.len := rfl
@[simp] theorem emit_orient (e : Event) (s : State) : (emit e s).orient = s.orient := rfl
@[simp] theorem emit_inv (e : Event) (s : State) : (emit e s).inv = s.inv := rfl
@[simp] theorem emit_cur (e : Event) (s : State) : (emit e s).cur = s.cur := rfl
@[simp] theorem emit_rem (e : Event) (s : State) : (emit e s).rem = s.rem := rfl
@[simp] theorem emit_pat (e : Event) (s : State) : (emit e s).pat = s.pat := rfl
@[simp] theorem emit_dc (e : Event) (s : State) : (emit e s).dc = s.dc := rfl
@[simp] theorem emit_rst (e : Event) (s : State) : (emit e s).rst = s.rst := rfl
@[simp] theorem emit_resp (e : Event) (s : State) : (emit e s).resp = s.resp := rfl
@[simp] theorem emit_fault (e : Event) (s : State) : (emit e s).fault = s.fault := rfl
@[simp] theorem emit_trace (e : Event) (s : State) : (emit e s).trace = s.trace ++ [e] := rfl
@[simp] theorem emit_pending (e : Event) (s : State) : (emit e s).pending = s.pending := rfl
@[simp] theorem emit_answers (e : Event) (s : State) : (emit e s).answers = s.answers := rfl
@[simp] theorem emit_delayReturns (e : Event) (s : State) : (emit e s).delayReturns = s.delayReturns := rfl
@[simp] theorem emit_port (e : Event) (s : State) : (emit e s).port = s.port := rfl
@[simp] theorem emit_host (e : Event) (s : State) : (emit e s).host = s.host := rfl
@[simp] theorem emit_responses (e : Event) (s : State) : (emit e s).responses = s.responses := rfl
@[simp] theorem emit_requests (e : Event) (s : State) : (emit e s).requests = s.requests := rfl
@[simp] theorem emit_mem (e : Event) (s : State) : (emit e s).mem = s.mem := rfl
@[simp] theorem emit_freeDraws (e : Event) (s : State) : (emit e s).freeDraws = s.freeDraws := rfl

/-! ## driveDc -/

@[simp] theorem driveDc_cfg (l : Level) (s : State) : (driveDc l s).cfg = s.cfg := rfl
@[simp] theorem driveDc_lc (l : Level) (s : State) : (driveDc l s).lc = s.lc := rfl
@[simp] theorem driveDc_busy (l : Level) (s : State) : (driveDc l s).busy = s.busy := rfl
@[simp] theorem driveDc_seq (l : Level) (s : State) : (driveDc l s).seq = s.seq := rfl
@[simp] theorem driveDc_op (l : Level) (s : State) : (driveDc l s).op = s.op := rfl
@[simp] theorem driveDc_x0 (l : Level) (s : State) : (driveDc l s).x0 = s.x0 := rfl
@[simp] theorem driveDc_y0 (l : Level) (s : State) : (driveDc l s).y0 = s.y0 := rfl
@[simp] theorem driveDc_x1 (l : Level) (s : State) : (driveDc l s).x1 = s.x1 := rfl
@[simp] theorem driveDc_y1 (l : Level) (s : State) : (driveDc l s).y1 = s.y1 := rfl
@[simp] theorem driveDc_color (l : Level) (s : State) : (driveDc l s).color = s.color := rfl
@[simp] theorem driveDc_ptr (l : Level) (s : State) : (driveDc l s).ptr = s.ptr := rfl
@[simp] theorem driveDc_len (l : Level) (s : State) : (driveDc l s).len = s.len := rfl
@[simp] theorem driveDc_orient (l : Level) (s : State) : (driveDc l s).orient = s.orient := rfl
@[simp] theorem driveDc_inv (l : Level) (s : State) : (driveDc l s).inv = s.inv := rfl
@[simp] theorem driveDc_cur (l : Level) (s : State) : (driveDc l s).cur = s.cur := rfl
@[simp] theorem driveDc_rem (l : Level) (s : State) : (driveDc l s).rem = s.rem := rfl
@[simp] theorem driveDc_pat (l : Level) (s : State) : (driveDc l s).pat = s.pat := rfl
@[simp] theorem driveDc_dc (l : Level) (s : State) : (driveDc l s).dc = some l := rfl
@[simp] theorem driveDc_rst (l : Level) (s : State) : (driveDc l s).rst = s.rst := rfl
@[simp] theorem driveDc_resp (l : Level) (s : State) : (driveDc l s).resp = s.resp := rfl
@[simp] theorem driveDc_fault (l : Level) (s : State) : (driveDc l s).fault = s.fault := rfl
@[simp] theorem driveDc_trace (l : Level) (s : State) : (driveDc l s).trace = s.trace ++ [.dc l] := rfl
@[simp] theorem driveDc_pending (l : Level) (s : State) : (driveDc l s).pending = s.pending := rfl
@[simp] theorem driveDc_answers (l : Level) (s : State) : (driveDc l s).answers = s.answers := rfl
@[simp] theorem driveDc_delayReturns (l : Level) (s : State) : (driveDc l s).delayReturns = s.delayReturns := rfl
@[simp] theorem driveDc_port (l : Level) (s : State) : (driveDc l s).port = s.port := rfl
@[simp] theorem driveDc_host (l : Level) (s : State) : (driveDc l s).host = s.host := rfl
@[simp] theorem driveDc_responses (l : Level) (s : State) : (driveDc l s).responses = s.responses := rfl
@[simp] theorem driveDc_requests (l : Level) (s : State) : (driveDc l s).requests = s.requests := rfl
@[simp] theorem driveDc_mem (l : Level) (s : State) : (driveDc l s).mem = s.mem := rfl
@[simp] theorem driveDc_freeDraws (l : Level) (s : State) : (driveDc l s).freeDraws = s.freeDraws := rfl

/-! ## advance -/

@[simp] theorem advance_cfg (s : State) : (advance s).cfg = s.cfg := rfl
@[simp] theorem advance_lc (s : State) : (advance s).lc = s.lc := rfl
@[simp] theorem advance_busy (s : State) : (advance s).busy = s.busy := rfl
@[simp] theorem advance_seq (s : State) : (advance s).seq = s.seq + 1 := rfl
@[simp] theorem advance_op (s : State) : (advance s).op = s.op := rfl
@[simp] theorem advance_x0 (s : State) : (advance s).x0 = s.x0 := rfl
@[simp] theorem advance_y0 (s : State) : (advance s).y0 = s.y0 := rfl
@[simp] theorem advance_x1 (s : State) : (advance s).x1 = s.x1 := rfl
@[simp] theorem advance_y1 (s : State) : (advance s).y1 = s.y1 := rfl
@[simp] theorem advance_color (s : State) : (advance s).color = s.color := rfl
@[simp] theorem advance_ptr (s : State) : (advance s).ptr = s.ptr := rfl
@[simp] theorem advance_len (s : State) : (advance s).len = s.len := rfl
@[simp] theorem advance_orient (s : State) : (advance s).orient = s.orient := rfl
@[simp] theorem advance_inv (s : State) : (advance s).inv = s.inv := rfl
@[simp] theorem advance_cur (s : State) : (advance s).cur = s.cur := rfl
@[simp] theorem advance_rem (s : State) : (advance s).rem = s.rem := rfl
@[simp] theorem advance_pat (s : State) : (advance s).pat = s.pat := rfl
@[simp] theorem advance_dc (s : State) : (advance s).dc = s.dc := rfl
@[simp] theorem advance_rst (s : State) : (advance s).rst = s.rst := rfl
@[simp] theorem advance_resp (s : State) : (advance s).resp = s.resp := rfl
@[simp] theorem advance_fault (s : State) : (advance s).fault = s.fault := rfl
@[simp] theorem advance_trace (s : State) : (advance s).trace = s.trace := rfl
@[simp] theorem advance_pending (s : State) : (advance s).pending = s.pending := rfl
@[simp] theorem advance_answers (s : State) : (advance s).answers = s.answers := rfl
@[simp] theorem advance_delayReturns (s : State) : (advance s).delayReturns = s.delayReturns := rfl
@[simp] theorem advance_port (s : State) : (advance s).port = s.port := rfl
@[simp] theorem advance_host (s : State) : (advance s).host = s.host := rfl
@[simp] theorem advance_responses (s : State) : (advance s).responses = s.responses := rfl
@[simp] theorem advance_requests (s : State) : (advance s).requests = s.requests := rfl
@[simp] theorem advance_mem (s : State) : (advance s).mem = s.mem := rfl
@[simp] theorem advance_freeDraws (s : State) : (advance s).freeDraws = s.freeDraws := rfl

/-! ## setLc -/

@[simp] theorem setLc_cfg (v : Lc) (s : State) : (setLc v s).cfg = s.cfg := rfl
@[simp] theorem setLc_lc (v : Lc) (s : State) : (setLc v s).lc = v := rfl
@[simp] theorem setLc_busy (v : Lc) (s : State) : (setLc v s).busy = s.busy := rfl
@[simp] theorem setLc_seq (v : Lc) (s : State) : (setLc v s).seq = s.seq := rfl
@[simp] theorem setLc_op (v : Lc) (s : State) : (setLc v s).op = s.op := rfl
@[simp] theorem setLc_x0 (v : Lc) (s : State) : (setLc v s).x0 = s.x0 := rfl
@[simp] theorem setLc_y0 (v : Lc) (s : State) : (setLc v s).y0 = s.y0 := rfl
@[simp] theorem setLc_x1 (v : Lc) (s : State) : (setLc v s).x1 = s.x1 := rfl
@[simp] theorem setLc_y1 (v : Lc) (s : State) : (setLc v s).y1 = s.y1 := rfl
@[simp] theorem setLc_color (v : Lc) (s : State) : (setLc v s).color = s.color := rfl
@[simp] theorem setLc_ptr (v : Lc) (s : State) : (setLc v s).ptr = s.ptr := rfl
@[simp] theorem setLc_len (v : Lc) (s : State) : (setLc v s).len = s.len := rfl
@[simp] theorem setLc_orient (v : Lc) (s : State) : (setLc v s).orient = s.orient := rfl
@[simp] theorem setLc_inv (v : Lc) (s : State) : (setLc v s).inv = s.inv := rfl
@[simp] theorem setLc_cur (v : Lc) (s : State) : (setLc v s).cur = s.cur := rfl
@[simp] theorem setLc_rem (v : Lc) (s : State) : (setLc v s).rem = s.rem := rfl
@[simp] theorem setLc_pat (v : Lc) (s : State) : (setLc v s).pat = s.pat := rfl
@[simp] theorem setLc_dc (v : Lc) (s : State) : (setLc v s).dc = s.dc := rfl
@[simp] theorem setLc_rst (v : Lc) (s : State) : (setLc v s).rst = s.rst := rfl
@[simp] theorem setLc_resp (v : Lc) (s : State) : (setLc v s).resp = s.resp := rfl
@[simp] theorem setLc_fault (v : Lc) (s : State) : (setLc v s).fault = s.fault := rfl
@[simp] theorem setLc_trace (v : Lc) (s : State) : (setLc v s).trace = s.trace := rfl
@[simp] theorem setLc_pending (v : Lc) (s : State) : (setLc v s).pending = s.pending := rfl
@[simp] theorem setLc_answers (v : Lc) (s : State) : (setLc v s).answers = s.answers := rfl
@[simp] theorem setLc_delayReturns (v : Lc) (s : State) : (setLc v s).delayReturns = s.delayReturns := rfl
@[simp] theorem setLc_port (v : Lc) (s : State) : (setLc v s).port = s.port := rfl
@[simp] theorem setLc_host (v : Lc) (s : State) : (setLc v s).host = s.host := rfl
@[simp] theorem setLc_responses (v : Lc) (s : State) : (setLc v s).responses = s.responses := rfl
@[simp] theorem setLc_requests (v : Lc) (s : State) : (setLc v s).requests = s.requests := rfl
@[simp] theorem setLc_mem (v : Lc) (s : State) : (setLc v s).mem = s.mem := rfl
@[simp] theorem setLc_freeDraws (v : Lc) (s : State) : (setLc v s).freeDraws = s.freeDraws := rfl

/-! ## respond -/

@[simp] theorem respond_cfg (st : Status) (s : State) : (respond st s).cfg = s.cfg := rfl
@[simp] theorem respond_lc (st : Status) (s : State) : (respond st s).lc = s.lc := rfl
@[simp] theorem respond_busy (st : Status) (s : State) : (respond st s).busy = false := rfl
@[simp] theorem respond_seq (st : Status) (s : State) : (respond st s).seq = s.seq := rfl
@[simp] theorem respond_op (st : Status) (s : State) : (respond st s).op = s.op := rfl
@[simp] theorem respond_x0 (st : Status) (s : State) : (respond st s).x0 = s.x0 := rfl
@[simp] theorem respond_y0 (st : Status) (s : State) : (respond st s).y0 = s.y0 := rfl
@[simp] theorem respond_x1 (st : Status) (s : State) : (respond st s).x1 = s.x1 := rfl
@[simp] theorem respond_y1 (st : Status) (s : State) : (respond st s).y1 = s.y1 := rfl
@[simp] theorem respond_color (st : Status) (s : State) : (respond st s).color = s.color := rfl
@[simp] theorem respond_ptr (st : Status) (s : State) : (respond st s).ptr = s.ptr := rfl
@[simp] theorem respond_len (st : Status) (s : State) : (respond st s).len = s.len := rfl
@[simp] theorem respond_orient (st : Status) (s : State) : (respond st s).orient = s.orient := rfl
@[simp] theorem respond_inv (st : Status) (s : State) : (respond st s).inv = s.inv := rfl
@[simp] theorem respond_cur (st : Status) (s : State) : (respond st s).cur = s.cur := rfl
@[simp] theorem respond_rem (st : Status) (s : State) : (respond st s).rem = s.rem := rfl
@[simp] theorem respond_pat (st : Status) (s : State) : (respond st s).pat = s.pat := rfl
@[simp] theorem respond_dc (st : Status) (s : State) : (respond st s).dc = s.dc := rfl
@[simp] theorem respond_rst (st : Status) (s : State) : (respond st s).rst = s.rst := rfl
@[simp] theorem respond_resp (st : Status) (s : State) : (respond st s).resp = some st := rfl
@[simp] theorem respond_fault (st : Status) (s : State) : (respond st s).fault = s.fault := rfl
@[simp] theorem respond_trace (st : Status) (s : State) : (respond st s).trace = s.trace := rfl
@[simp] theorem respond_pending (st : Status) (s : State) : (respond st s).pending = s.pending := rfl
@[simp] theorem respond_answers (st : Status) (s : State) : (respond st s).answers = s.answers := rfl
@[simp] theorem respond_delayReturns (st : Status) (s : State) : (respond st s).delayReturns = s.delayReturns := rfl
@[simp] theorem respond_port (st : Status) (s : State) : (respond st s).port = s.port := rfl
@[simp] theorem respond_host (st : Status) (s : State) : (respond st s).host = s.host := rfl
@[simp] theorem respond_responses (st : Status) (s : State) : (respond st s).responses = s.responses ++ [st] := rfl
@[simp] theorem respond_requests (st : Status) (s : State) : (respond st s).requests = s.requests := rfl
@[simp] theorem respond_mem (st : Status) (s : State) : (respond st s).mem = s.mem := rfl
@[simp] theorem respond_freeDraws (st : Status) (s : State) : (respond st s).freeDraws = s.freeDraws := rfl

/-! ## raise -/

@[simp] theorem raise_cfg (c : FaultCode) (s : State) : (raise c s).cfg = s.cfg := rfl
@[simp] theorem raise_lc (c : FaultCode) (s : State) : (raise c s).lc = s.lc := rfl
@[simp] theorem raise_busy (c : FaultCode) (s : State) : (raise c s).busy = s.busy := rfl
@[simp] theorem raise_seq (c : FaultCode) (s : State) : (raise c s).seq = s.seq := rfl
@[simp] theorem raise_op (c : FaultCode) (s : State) : (raise c s).op = s.op := rfl
@[simp] theorem raise_x0 (c : FaultCode) (s : State) : (raise c s).x0 = s.x0 := rfl
@[simp] theorem raise_y0 (c : FaultCode) (s : State) : (raise c s).y0 = s.y0 := rfl
@[simp] theorem raise_x1 (c : FaultCode) (s : State) : (raise c s).x1 = s.x1 := rfl
@[simp] theorem raise_y1 (c : FaultCode) (s : State) : (raise c s).y1 = s.y1 := rfl
@[simp] theorem raise_color (c : FaultCode) (s : State) : (raise c s).color = s.color := rfl
@[simp] theorem raise_ptr (c : FaultCode) (s : State) : (raise c s).ptr = s.ptr := rfl
@[simp] theorem raise_len (c : FaultCode) (s : State) : (raise c s).len = s.len := rfl
@[simp] theorem raise_orient (c : FaultCode) (s : State) : (raise c s).orient = s.orient := rfl
@[simp] theorem raise_inv (c : FaultCode) (s : State) : (raise c s).inv = s.inv := rfl
@[simp] theorem raise_cur (c : FaultCode) (s : State) : (raise c s).cur = s.cur := rfl
@[simp] theorem raise_rem (c : FaultCode) (s : State) : (raise c s).rem = s.rem := rfl
@[simp] theorem raise_pat (c : FaultCode) (s : State) : (raise c s).pat = s.pat := rfl
@[simp] theorem raise_dc (c : FaultCode) (s : State) : (raise c s).dc = s.dc := rfl
@[simp] theorem raise_rst (c : FaultCode) (s : State) : (raise c s).rst = s.rst := rfl
@[simp] theorem raise_resp (c : FaultCode) (s : State) : (raise c s).resp = s.resp := rfl
@[simp] theorem raise_trace (c : FaultCode) (s : State) : (raise c s).trace = s.trace := rfl
@[simp] theorem raise_pending (c : FaultCode) (s : State) : (raise c s).pending = s.pending := rfl
@[simp] theorem raise_answers (c : FaultCode) (s : State) : (raise c s).answers = s.answers := rfl
@[simp] theorem raise_delayReturns (c : FaultCode) (s : State) : (raise c s).delayReturns = s.delayReturns := rfl
@[simp] theorem raise_port (c : FaultCode) (s : State) : (raise c s).port = s.port := rfl
@[simp] theorem raise_host (c : FaultCode) (s : State) : (raise c s).host = s.host := rfl
@[simp] theorem raise_responses (c : FaultCode) (s : State) : (raise c s).responses = s.responses := rfl
@[simp] theorem raise_requests (c : FaultCode) (s : State) : (raise c s).requests = s.requests := rfl
@[simp] theorem raise_mem (c : FaultCode) (s : State) : (raise c s).mem = s.mem := rfl
@[simp] theorem raise_freeDraws (c : FaultCode) (s : State) : (raise c s).freeDraws = s.freeDraws := rfl

/-! ## beginRequest -/

@[simp] theorem beginRequest_cfg (o : Op) (s : State) : (beginRequest o s).cfg = s.cfg := rfl
@[simp] theorem beginRequest_lc (o : Op) (s : State) : (beginRequest o s).lc = s.lc := rfl
@[simp] theorem beginRequest_busy (o : Op) (s : State) : (beginRequest o s).busy = true := rfl
@[simp] theorem beginRequest_seq (o : Op) (s : State) : (beginRequest o s).seq = 0 := rfl
@[simp] theorem beginRequest_op (o : Op) (s : State) : (beginRequest o s).op = opCode o := rfl
@[simp] theorem beginRequest_x0 (o : Op) (s : State) : (beginRequest o s).x0 = s.x0 := rfl
@[simp] theorem beginRequest_y0 (o : Op) (s : State) : (beginRequest o s).y0 = s.y0 := rfl
@[simp] theorem beginRequest_x1 (o : Op) (s : State) : (beginRequest o s).x1 = s.x1 := rfl
@[simp] theorem beginRequest_y1 (o : Op) (s : State) : (beginRequest o s).y1 = s.y1 := rfl
@[simp] theorem beginRequest_color (o : Op) (s : State) : (beginRequest o s).color = s.color := rfl
@[simp] theorem beginRequest_ptr (o : Op) (s : State) : (beginRequest o s).ptr = s.ptr := rfl
@[simp] theorem beginRequest_len (o : Op) (s : State) : (beginRequest o s).len = s.len := rfl
@[simp] theorem beginRequest_orient (o : Op) (s : State) : (beginRequest o s).orient = s.orient := rfl
@[simp] theorem beginRequest_inv (o : Op) (s : State) : (beginRequest o s).inv = s.inv := rfl
@[simp] theorem beginRequest_cur (o : Op) (s : State) : (beginRequest o s).cur = s.cur := rfl
@[simp] theorem beginRequest_rem (o : Op) (s : State) : (beginRequest o s).rem = s.rem := rfl
@[simp] theorem beginRequest_pat (o : Op) (s : State) : (beginRequest o s).pat = s.pat := rfl
@[simp] theorem beginRequest_dc (o : Op) (s : State) : (beginRequest o s).dc = s.dc := rfl
@[simp] theorem beginRequest_rst (o : Op) (s : State) : (beginRequest o s).rst = s.rst := rfl
@[simp] theorem beginRequest_resp (o : Op) (s : State) : (beginRequest o s).resp = s.resp := rfl
@[simp] theorem beginRequest_fault (o : Op) (s : State) : (beginRequest o s).fault = s.fault := rfl
@[simp] theorem beginRequest_trace (o : Op) (s : State) : (beginRequest o s).trace = s.trace := rfl
@[simp] theorem beginRequest_pending (o : Op) (s : State) : (beginRequest o s).pending = s.pending := rfl
@[simp] theorem beginRequest_answers (o : Op) (s : State) : (beginRequest o s).answers = s.answers := rfl
@[simp] theorem beginRequest_delayReturns (o : Op) (s : State) : (beginRequest o s).delayReturns = s.delayReturns := rfl
@[simp] theorem beginRequest_port (o : Op) (s : State) : (beginRequest o s).port = s.port := rfl
@[simp] theorem beginRequest_host (o : Op) (s : State) : (beginRequest o s).host = s.host := rfl
@[simp] theorem beginRequest_responses (o : Op) (s : State) : (beginRequest o s).responses = s.responses := rfl
@[simp] theorem beginRequest_requests (o : Op) (s : State) : (beginRequest o s).requests = s.requests := rfl
@[simp] theorem beginRequest_mem (o : Op) (s : State) : (beginRequest o s).mem = s.mem := rfl
@[simp] theorem beginRequest_freeDraws (o : Op) (s : State) : (beginRequest o s).freeDraws = s.freeDraws := rfl

/-! ## latchWindow -/

@[simp] theorem latchWindow_cfg (a b c d : Half) (s : State) : (latchWindow a b c d s).cfg = s.cfg := rfl
@[simp] theorem latchWindow_lc (a b c d : Half) (s : State) : (latchWindow a b c d s).lc = s.lc := rfl
@[simp] theorem latchWindow_busy (a b c d : Half) (s : State) : (latchWindow a b c d s).busy = s.busy := rfl
@[simp] theorem latchWindow_seq (a b c d : Half) (s : State) : (latchWindow a b c d s).seq = s.seq := rfl
@[simp] theorem latchWindow_op (a b c d : Half) (s : State) : (latchWindow a b c d s).op = s.op := rfl
@[simp] theorem latchWindow_x0 (a b c d : Half) (s : State) : (latchWindow a b c d s).x0 = a := rfl
@[simp] theorem latchWindow_y0 (a b c d : Half) (s : State) : (latchWindow a b c d s).y0 = b := rfl
@[simp] theorem latchWindow_x1 (a b c d : Half) (s : State) : (latchWindow a b c d s).x1 = c := rfl
@[simp] theorem latchWindow_y1 (a b c d : Half) (s : State) : (latchWindow a b c d s).y1 = d := rfl
@[simp] theorem latchWindow_color (a b c d : Half) (s : State) : (latchWindow a b c d s).color = s.color := rfl
@[simp] theorem latchWindow_ptr (a b c d : Half) (s : State) : (latchWindow a b c d s).ptr = s.ptr := rfl
@[simp] theorem latchWindow_len (a b c d : Half) (s : State) : (latchWindow a b c d s).len = s.len := rfl
@[simp] theorem latchWindow_orient (a b c d : Half) (s : State) : (latchWindow a b c d s).orient = s.orient := rfl
@[simp] theorem latchWindow_inv (a b c d : Half) (s : State) : (latchWindow a b c d s).inv = s.inv := rfl
@[simp] theorem latchWindow_cur (a b c d : Half) (s : State) : (latchWindow a b c d s).cur = s.cur := rfl
@[simp] theorem latchWindow_rem (a b c d : Half) (s : State) : (latchWindow a b c d s).rem = s.rem := rfl
@[simp] theorem latchWindow_pat (a b c d : Half) (s : State) : (latchWindow a b c d s).pat = s.pat := rfl
@[simp] theorem latchWindow_dc (a b c d : Half) (s : State) : (latchWindow a b c d s).dc = s.dc := rfl
@[simp] theorem latchWindow_rst (a b c d : Half) (s : State) : (latchWindow a b c d s).rst = s.rst := rfl
@[simp] theorem latchWindow_resp (a b c d : Half) (s : State) : (latchWindow a b c d s).resp = s.resp := rfl
@[simp] theorem latchWindow_fault (a b c d : Half) (s : State) : (latchWindow a b c d s).fault = s.fault := rfl
@[simp] theorem latchWindow_trace (a b c d : Half) (s : State) : (latchWindow a b c d s).trace = s.trace := rfl
@[simp] theorem latchWindow_pending (a b c d : Half) (s : State) : (latchWindow a b c d s).pending = s.pending := rfl
@[simp] theorem latchWindow_answers (a b c d : Half) (s : State) : (latchWindow a b c d s).answers = s.answers := rfl
@[simp] theorem latchWindow_delayReturns (a b c d : Half) (s : State) : (latchWindow a b c d s).delayReturns = s.delayReturns := rfl
@[simp] theorem latchWindow_port (a b c d : Half) (s : State) : (latchWindow a b c d s).port = s.port := rfl
@[simp] theorem latchWindow_host (a b c d : Half) (s : State) : (latchWindow a b c d s).host = s.host := rfl
@[simp] theorem latchWindow_responses (a b c d : Half) (s : State) : (latchWindow a b c d s).responses = s.responses := rfl
@[simp] theorem latchWindow_requests (a b c d : Half) (s : State) : (latchWindow a b c d s).requests = s.requests := rfl
@[simp] theorem latchWindow_mem (a b c d : Half) (s : State) : (latchWindow a b c d s).mem = s.mem := rfl
@[simp] theorem latchWindow_freeDraws (a b c d : Half) (s : State) : (latchWindow a b c d s).freeDraws = s.freeDraws := rfl

/-! ## takeRem -/

@[simp] theorem takeRem_cfg (n : Nat) (s : State) : (takeRem n s).cfg = s.cfg := rfl
@[simp] theorem takeRem_lc (n : Nat) (s : State) : (takeRem n s).lc = s.lc := rfl
@[simp] theorem takeRem_busy (n : Nat) (s : State) : (takeRem n s).busy = s.busy := rfl
@[simp] theorem takeRem_seq (n : Nat) (s : State) : (takeRem n s).seq = s.seq := rfl
@[simp] theorem takeRem_op (n : Nat) (s : State) : (takeRem n s).op = s.op := rfl
@[simp] theorem takeRem_x0 (n : Nat) (s : State) : (takeRem n s).x0 = s.x0 := rfl
@[simp] theorem takeRem_y0 (n : Nat) (s : State) : (takeRem n s).y0 = s.y0 := rfl
@[simp] theorem takeRem_x1 (n : Nat) (s : State) : (takeRem n s).x1 = s.x1 := rfl
@[simp] theorem takeRem_y1 (n : Nat) (s : State) : (takeRem n s).y1 = s.y1 := rfl
@[simp] theorem takeRem_color (n : Nat) (s : State) : (takeRem n s).color = s.color := rfl
@[simp] theorem takeRem_ptr (n : Nat) (s : State) : (takeRem n s).ptr = s.ptr := rfl
@[simp] theorem takeRem_len (n : Nat) (s : State) : (takeRem n s).len = s.len := rfl
@[simp] theorem takeRem_orient (n : Nat) (s : State) : (takeRem n s).orient = s.orient := rfl
@[simp] theorem takeRem_inv (n : Nat) (s : State) : (takeRem n s).inv = s.inv := rfl
@[simp] theorem takeRem_cur (n : Nat) (s : State) : (takeRem n s).cur = s.cur := rfl
@[simp] theorem takeRem_rem (n : Nat) (s : State) : (takeRem n s).rem = BitVec.ofNat 32 (s.rem.toNat - n) := rfl
@[simp] theorem takeRem_pat (n : Nat) (s : State) : (takeRem n s).pat = s.pat := rfl
@[simp] theorem takeRem_dc (n : Nat) (s : State) : (takeRem n s).dc = s.dc := rfl
@[simp] theorem takeRem_rst (n : Nat) (s : State) : (takeRem n s).rst = s.rst := rfl
@[simp] theorem takeRem_resp (n : Nat) (s : State) : (takeRem n s).resp = s.resp := rfl
@[simp] theorem takeRem_fault (n : Nat) (s : State) : (takeRem n s).fault = s.fault := rfl
@[simp] theorem takeRem_trace (n : Nat) (s : State) : (takeRem n s).trace = s.trace := rfl
@[simp] theorem takeRem_pending (n : Nat) (s : State) : (takeRem n s).pending = s.pending := rfl
@[simp] theorem takeRem_answers (n : Nat) (s : State) : (takeRem n s).answers = s.answers := rfl
@[simp] theorem takeRem_delayReturns (n : Nat) (s : State) : (takeRem n s).delayReturns = s.delayReturns := rfl
@[simp] theorem takeRem_port (n : Nat) (s : State) : (takeRem n s).port = s.port := rfl
@[simp] theorem takeRem_host (n : Nat) (s : State) : (takeRem n s).host = s.host := rfl
@[simp] theorem takeRem_responses (n : Nat) (s : State) : (takeRem n s).responses = s.responses := rfl
@[simp] theorem takeRem_requests (n : Nat) (s : State) : (takeRem n s).requests = s.requests := rfl
@[simp] theorem takeRem_mem (n : Nat) (s : State) : (takeRem n s).mem = s.mem := rfl
@[simp] theorem takeRem_freeDraws (n : Nat) (s : State) : (takeRem n s).freeDraws = s.freeDraws := rfl

end Sys2Proof.Laws
end

