-- ==== Sys2Proof/Laws/Ops.lean ====
section
/-! SUPPORT. What the shared operations do: recording a fault, aborting, accepting a request. -/

namespace Sys2Proof.Laws

open Sys2Proof.Machine

theorem raise_first {c : FaultCode} {s : State} (h : s.fault = none) : raise c s = { s with fault := some c } := by
  simp [raise, h]

theorem raise_again {c d : FaultCode} {s : State} (h : s.fault = some d) : raise c s = s := by
  unfold raise
  rw [h]
  simp only
  rw [← h]

@[simp] theorem opOfCode_opCode (o : Op) : opOfCode (opCode o) = some o := by cases o <;> rfl

theorem opCode_injective {o p : Op} (h : opCode o = opCode p) : o = p := by
  have := congrArg opOfCode h
  simpa using this

/-- In INIT under IGNORE a failed transfer only advances SEQ (R206). -/
theorem transferFailed_goesOn {s : State} (ho : s.op = opCode .init) (hp : s.cfg.initErrorPolicy = .ignore) :
    transferFailed s = advance s := by
  simp [transferFailed, running, ho, hp]

/-- INIT under ABORT (R205). -/
theorem transferFailed_init {s : State} (ho : s.op = opCode .init) (hp : s.cfg.initErrorPolicy = .abort) :
    transferFailed s = respond .errTransfer (setLc .initFailed s) := by
  simp [transferFailed, abort, running, ho, hp]

/-- Every other request (R265). -/
theorem transferFailed_other {s : State} (ho : s.op ≠ opCode .init) : transferFailed s = respond .errTransfer s := by
  simp [transferFailed, abort, running, ho]

/-- Everything a failed transfer can do. -/
theorem transferFailed_cases (s : State) :
    (s.op = opCode .init ∧ transferFailed s = advance s) ∨
      (s.op = opCode .init ∧ transferFailed s = respond .errTransfer (setLc .initFailed s)) ∨
      (s.op ≠ opCode .init ∧ transferFailed s = respond .errTransfer s) := by
  by_cases ho : s.op = opCode .init
  · cases hp : s.cfg.initErrorPolicy with
    | abort => exact .inr (.inl ⟨ho, transferFailed_init ho hp⟩)
    | ignore => exact .inl ⟨ho, transferFailed_goesOn ho hp⟩
  · exact .inr (.inr ⟨ho, transferFailed_other ho⟩)

/-! ## Acceptance -/

theorem accept_stopped {o : Op} {c : Option FaultCode} {f : State → State} {s : State} {d : FaultCode}
    (h : s.fault = some d) : accept o c f s = .fault (.stopped d) := by
  simp [accept, h]

theorem accept_busy {o : Op} {c : Option FaultCode} {f : State → State} {s : State} (h : s.fault = none)
    (hb : s.busy = true) : accept o c f s = .next { s with fault := some .reentrant } := by
  simp [accept, h, hb, raise_first h]

theorem accept_notReady {o : Op} {c : Option FaultCode} {f : State → State} {s : State} (h : s.fault = none)
    (hb : s.busy = false) (hl : lifecycleOk o s.lc = false) :
    accept o c f s = .next { s with fault := some .notReady } := by
  simp [accept, h, hb, hl, raise_first h]

theorem accept_operand {o : Op} {c : FaultCode} {f : State → State} {s : State} (h : s.fault = none)
    (hb : s.busy = false) (hl : lifecycleOk o s.lc = true) :
    accept o (some c) f s = .next { s with fault := some c } := by
  simp [accept, h, hb, hl, raise_first h]

theorem accept_begins {o : Op} {f : State → State} {s : State} (h : s.fault = none)
    (hb : s.busy = false) (hl : lifecycleOk o s.lc = true) :
    accept o none f s = .next (f (beginRequest o s)) := by
  simp [accept, h, hb, hl]

/-- Everything acceptance can answer next: a fault recorded and nothing else, or the request begun. -/
theorem accept_next {o : Op} {c : Option FaultCode} {f : State → State} {s t : State}
    (h : accept o c f s = .next t) :
    s.fault = none ∧
      ((∃ d, t = { s with fault := some d }) ∨
        (s.busy = false ∧ lifecycleOk o s.lc = true ∧ c = none ∧ t = f (beginRequest o s))) := by
  rcases Option.eq_none_or_eq_some s.fault with hf | ⟨d, hf⟩
  · refine ⟨hf, ?_⟩
    by_cases hb : s.busy = true
    · rw [accept_busy hf hb] at h; cases h; exact .inl ⟨_, rfl⟩
    · replace hb : s.busy = false := by simpa using hb
      by_cases hl : lifecycleOk o s.lc = true
      · cases c with
        | some d => rw [accept_operand hf hb hl] at h; cases h; exact .inl ⟨_, rfl⟩
        | none => rw [accept_begins hf hb hl] at h; cases h; exact .inr ⟨hb, hl, rfl, rfl⟩
      · rw [accept_notReady hf hb (by simpa using hl)] at h; cases h; exact .inl ⟨_, rfl⟩
  · rw [accept_stopped hf] at h; cases h

/-- With FAULT = none acceptance always answers a next state. -/
theorem accept_total {o : Op} {c : Option FaultCode} {f : State → State} {s : State} (h : s.fault = none) :
    ∃ t, accept o c f s = .next t := by
  unfold accept
  rw [h]
  simp only
  split
  · exact ⟨_, rfl⟩
  · split
    · cases c <;> exact ⟨_, rfl⟩
    · exact ⟨_, rfl⟩

end Sys2Proof.Laws
end

