-- ==== Sys2Proof/Laws/Framer.lean ====
section
/-! SUPPORT. What a call and its answer do, and the micro-operations built on them. -/

namespace Sys2Proof.Laws

open Sys2Proof.Machine

/-! ## Calls -/

/-- A transfer of one unit: outstanding without an answer, completed with one. -/
theorem callOut_unit (l : Level) (b : Byte) (s : State) :
    callOut (.unit l b) s =
      match s.answers with
      | [] => { s with pending := some (.unit l b) }
      | r :: rest => unitDone l b r { s with pending := none, answers := rest } := rfl

theorem callOut_chunk (src : Src) (bs : List Byte) (s : State) :
    callOut (.chunk src bs) s =
      match s.answers with
      | [] => { s with pending := some (.chunk src bs) }
      | r :: rest => chunkDone src bs r { s with pending := none, answers := rest } := rfl

theorem callOut_acquire (s : State) :
    callOut .acquire s =
      match s.answers with
      | [] => { s with pending := some .acquire }
      | r :: rest => acquireDone r { s with pending := none, answers := rest } := rfl

theorem callOut_wait (ms : Nat) (s : State) :
    callOut (.wait ms) s =
      match s.delayReturns with
      | 0 => { s with pending := some (.wait ms) }
      | n + 1 => advance { s with pending := none, delayReturns := n } := rfl

/-- Everything a step of the TRANSPORT or the DELAY can do. -/
theorem settle_cases (s : State) :
    settle s = s ∨
      (∃ r rest, s.pending = some .acquire ∧ s.answers = r :: rest ∧
        settle s = acquireDone r { s with pending := none, answers := rest }) ∨
      (∃ l b r rest, s.pending = some (.unit l b) ∧ s.answers = r :: rest ∧
        settle s = unitDone l b r { s with pending := none, answers := rest }) ∨
      (∃ src bs r rest, s.pending = some (.chunk src bs) ∧ s.answers = r :: rest ∧
        settle s = chunkDone src bs r { s with pending := none, answers := rest }) ∨
      (∃ ms n, s.pending = some (.wait ms) ∧ s.delayReturns = n + 1 ∧
        settle s = advance { s with pending := none, delayReturns := n }) := by
  unfold settle
  split
  · exact .inl rfl
  · split
    · exact .inl rfl
    · exact .inr (.inl ⟨_, _, ‹_›, ‹_›, rfl⟩)
  · split
    · exact .inl rfl
    · exact .inr (.inr (.inl ⟨_, _, _, _, ‹_›, ‹_›, rfl⟩))
  · split
    · exact .inl rfl
    · exact .inr (.inr (.inr (.inl ⟨_, _, _, _, ‹_›, ‹_›, rfl⟩)))
  · split
    · exact .inl rfl
    · exact .inr (.inr (.inr (.inr ⟨_, _, ‹_›, ‹_›, rfl⟩)))

/-! ## Chunks -/

/-- CUR after a chunk, where a u32 holds the sum. -/
theorem advanceCur_small {n : Nat} {s : State} (h : s.cur.toNat + n < 2 ^ 32) :
    advanceCur n s = { s with cur := BitVec.ofNat 32 (s.cur.toNat + n) } := if_pos h

/-- CUR after a chunk, where no u32 holds the sum (entry 16). -/
theorem advanceCur_large {n : Nat} {s : State} (h : ¬s.cur.toNat + n < 2 ^ 32) :
    advanceCur n s = { s with cur := Config.curPastTop s.freeDraws, freeDraws := s.freeDraws + 1 } := if_neg h

/-- CUR and the free value's count are all that a chunk's advance touches. -/
theorem advanceCurFor_eq (src : Src) (n : Nat) (s : State) :
    ∃ c k, advanceCurFor src n s = { s with cur := c, freeDraws := k } := by
  cases src with
  | pat => exact ⟨_, _, rfl⟩
  | pix => exact ⟨_, _, rfl⟩
  | mem =>
    by_cases h : s.cur.toNat + n < 2 ^ 32
    · exact ⟨_, _, if_pos h⟩
    · exact ⟨_, _, if_neg h⟩

theorem takeRem_toNat (n : Nat) (s : State) : (takeRem n s).rem.toNat = s.rem.toNat - n := by
  have := s.rem.isLt
  simp only [takeRem, BitVec.toNat_ofNat]
  omega

/-- A delivered chunk of n bytes: REM falls by n, SEQ advances exactly where REM reaches 0, and CUR is what
`advanceCurFor` makes of it. -/
theorem chunkDone_ok (src : Src) (bs : List Byte) (s : State) :
    chunkDone src bs .ok s =
      { s with
        trace := s.trace ++ [.xfer .data bs .ok]
        rem := BitVec.ofNat 32 (s.rem.toNat - bs.length)
        cur := (advanceCurFor src bs.length s).cur
        freeDraws := (advanceCurFor src bs.length s).freeDraws
        seq := if s.rem.toNat - bs.length = 0 then s.seq + 1 else s.seq } := by
  have hz : (BitVec.ofNat 32 (s.rem.toNat - bs.length) = 0) ↔ s.rem.toNat - bs.length = 0 := by
    have := s.rem.isLt
    rw [← BitVec.toNat_inj]
    simp only [BitVec.toNat_ofNat, BitVec.ofNat_eq_ofNat]
    omega
  have hc : advanceCurFor src bs.length (takeRem bs.length (emit (.xfer .data bs .ok) s)) =
      { s with
        trace := s.trace ++ [.xfer .data bs .ok]
        rem := BitVec.ofNat 32 (s.rem.toNat - bs.length)
        cur := (advanceCurFor src bs.length s).cur
        freeDraws := (advanceCurFor src bs.length s).freeDraws } := by
    cases src with
    | pat => rfl
    | pix => rfl
    | mem =>
      by_cases h : s.cur.toNat + bs.length < 2 ^ 32
      · rw [advanceCurFor, advanceCurFor, advanceCur_small h, advanceCur_small (by simpa using h)]
        rfl
      · rw [advanceCurFor, advanceCurFor, advanceCur_large h, advanceCur_large (by simpa using h)]
        rfl
  rw [chunkDone, hc, advanceIfDone]
  by_cases h : s.rem.toNat - bs.length = 0
  · rw [if_pos (hz.2 h), if_pos h]
    rfl
  · rw [if_neg (fun h' => h (hz.1 h')), if_neg h]

theorem chunkDone_err (src : Src) (bs : List Byte) (s : State) :
    chunkDone src bs .err s = transferFailed { s with trace := s.trace ++ [.xfer .data bs .err] } := rfl

/-- CUR after a chunk of a buffer, where a u32 holds the sum. -/
theorem advanceCurFor_mem {n : Nat} {s : State} (h : s.cur.toNat + n < 2 ^ 32) :
    (advanceCurFor .mem n s).cur.toNat = s.cur.toNat + n := by
  rw [advanceCurFor, advanceCur_small h]
  exact Nat.mod_eq_of_lt h

/-! ## The ENGINE -/

/-- A ready ENGINE runs the micro-operation. -/
theorem engineStep_ready {f : State → State} {s : State} (hf : s.fault = none) (hb : s.busy = true)
    (hp : s.pending = none) : engineStep f s = .next (f s) := by
  simp [engineStep, hf, hb, hp]

/-- Only a ready ENGINE answers a next state. -/
theorem engineStep_next {f : State → State} {s t : State} (h : engineStep f s = .next t) :
    s.fault = none ∧ s.busy = true ∧ s.pending = none ∧ t = f s := by
  unfold engineStep at h
  split at h
  · cases h
  · split at h
    · split at h
      · cases h; exact ⟨‹_›, ‹_›, ‹_›, rfl⟩
      · cases h
    · cases h

/-- A chunk that lies inside host memory goes out. -/
theorem streamChunk_sends {src : Src} {s : State} (h0 : s.rem ≠ 0) (ht : chunkPastTop src s = false) :
    streamChunk src s = .next (callOut (.chunk src (chunkBytes src (chunkSize src s) s)) s) := by
  rw [streamChunk, if_neg h0, ht]
  rfl

/-- Everything streamChunk can answer next. -/
theorem streamChunk_next {src : Src} {s t : State} (h : streamChunk src s = .next t) :
    (s.rem = 0 ∧ t = advance s) ∨
      (s.rem ≠ 0 ∧ chunkPastTop src s = false ∧
        t = callOut (.chunk src (chunkBytes src (chunkSize src s) s)) s) := by
  unfold streamChunk at h
  split at h
  · cases h; exact .inl ⟨‹_›, rfl⟩
  · split at h
    · cases h
    · rename_i h0 h1
      cases h
      exact .inr ⟨h0, by simpa using h1, rfl⟩

/-- A chunk has exactly its size in bytes. -/
theorem length_chunkBytes (src : Src) (s : State) : (chunkBytes src (chunkSize src s) s).length = chunkSize src s := by
  cases src with
  | pat => simp [chunkBytes, chunkSize, chunkCap, Config.fillChunk]
  | pix => simp [chunkBytes, chunkSize, chunkCap, msbFirst]
  | mem => simp [chunkBytes, length_readRange]

end Sys2Proof.Laws
end

