-- ==== Sys2Proof/Laws/Step.lean ====
section
/-! SUPPORT. What one step of the machine can do. -/

namespace Sys2Proof.Laws

open Sys2Proof.Machine Sys2Proof.Safety

/-! ## Which agent moves -/

theorem step_refused {s : State} (h : configOk s = false) : step s = .refused .configRefused := by
  simp [step, agentStep, h]

theorem step_reset {s : State} {rest : List HostMove} (hc : configOk s = true) (h : s.host = .reset :: rest) :
    step s = .next (resetBlock { s with host := rest }) := by
  simp [step, agentStep, hc, agentTurn, h, outsideMove]

theorem step_live {s : State} (hc : configOk s = true) (h : noReset s) : step s = liveTurn s := by
  unfold step agentStep agentTurn
  rw [if_pos hc]
  split
  · exact absurd ‹_› (h _)
  · rfl

theorem liveTurn_stopped {s : State} {c : FaultCode} (h : s.fault = some c) : liveTurn s = stoppedTurn c s := by
  unfold liveTurn
  rw [h]

theorem liveTurn_port {s : State} {d : Descriptor} (h : s.fault = none) (hp : s.port = some d) :
    liveTurn s = acceptPort d (takePort d s) := by
  unfold liveTurn
  rw [h, hp]

theorem liveTurn_turn {s : State} (h : s.fault = none) (hp : s.port = none) : liveTurn s = turn s := by
  unfold liveTurn
  rw [h, hp]

theorem turn_block {s : State} (h : s.host = []) : turn s = blockStep s := by
  unfold turn
  rw [h]

/-- With no move of the outside world and nothing on the port the step is the block's own. -/
theorem step_block {s : State} (hc : configOk s = true) (hf : s.fault = none) (hp : s.port = none)
    (hh : s.host = []) : step s = blockStep s := by
  rw [step_live hc (by simp [noReset, hh]), liveTurn_turn hf hp, turn_block hh]

/-- With no outside move left a stopped block takes no step (R264). -/
theorem step_stopped {s : State} {c : FaultCode} (hc : configOk s = true) (hf : s.fault = some c) (hh : s.host = []) :
    step s = .fault (.stopped c) := by
  rw [step_live hc (by simp [noReset, hh]), liveTurn_stopped hf, stoppedTurn, hh]

/-- In a stopped block the next outside move is made, and nothing else (R264, R30). -/
theorem step_stopped_move {s : State} {c : FaultCode} {m : HostMove} {rest : List HostMove} (hc : configOk s = true)
    (hf : s.fault = some c) (hh : s.host = m :: rest) : step s = .next (outsideMove m { s with host := rest }) := by
  by_cases hm : m = .reset
  · subst hm
    rw [step_reset hc hh]
    rfl
  · rw [step_live hc (by simp [noReset, hh, hm]), liveTurn_stopped hf, stoppedTurn, hh]

/-- An outside move that is no reset writes the port, the coming answers and returns, or one byte of host memory. -/
theorem outsideMove_cases {m : HostMove} (s : State) (hm : m ≠ .reset) :
    (∃ p as n, outsideMove m s = { s with port := p, answers := as, delayReturns := n }) ∨
      ∃ a b, m = .poke a b ∧ outsideMove m s = { s with mem := Memory.write s.mem a.toNat b } := by
  cases m with
  | call d => exact .inl ⟨_, s.answers, s.delayReturns, rfl⟩
  | intrude d => exact .inl ⟨_, s.answers, s.delayReturns, rfl⟩
  | poke a b => exact .inr ⟨a, b, rfl, rfl⟩
  | answer r => exact .inl ⟨s.port, _, s.delayReturns, rfl⟩
  | wake => exact .inl ⟨s.port, s.answers, _, rfl⟩
  | pass => exact .inl ⟨s.port, s.answers, s.delayReturns, rfl⟩
  | reset => exact absurd rfl hm

/-- The outside world's or the block's turn. -/
theorem turn_cases {s t : State} (h : turn s = .next t) (hn : noReset s) :
    (∃ m rest, s.host = m :: rest ∧ m ≠ .reset ∧ t = outsideMove m { s with host := rest }) ∨
      ∃ rest, blockStep { s with host := rest } = .next t := by
  unfold turn at h
  split at h
  · split at h
    · exact .inr ⟨s.host, h⟩
    · cases h; exact .inl ⟨_, _, ‹_›, by simp, rfl⟩
  · cases h; exact .inl ⟨_, _, ‹_›, by simp, rfl⟩
  · cases h; exact .inl ⟨_, _, ‹_›, by simp, rfl⟩
  · cases h; exact .inl ⟨_, _, ‹_›, by simp, rfl⟩
  · cases h; exact .inl ⟨_, _, ‹_›, by simp, rfl⟩
  · exact .inr ⟨_, h⟩
  · exact absurd ‹_› (hn _)
  · exact .inr ⟨s.host, h⟩

/-- Everything that can happen in a step that is no reset: a presented request is taken; an outside move is made (in a
stopped block too); the block takes its own step. -/
theorem step_cases {s t : State} (h : step s = .next t) (hn : noReset s) :
    configOk s = true ∧
      ((s.fault = none ∧ ∃ d, s.port = some d ∧ acceptPort d (takePort d s) = .next t) ∨
        (∃ p as n rest, t = { s with port := p, answers := as, delayReturns := n, host := rest }) ∨
        (∃ a b rest, s.host = .poke a b :: rest ∧ t = { s with mem := Memory.write s.mem a.toNat b, host := rest }) ∨
        (s.fault = none ∧ s.port = none ∧ ∃ rest, blockStep { s with host := rest } = .next t)) := by
  have outside : ∀ m rest, s.host = m :: rest → m ≠ .reset → t = outsideMove m { s with host := rest } →
      (∃ p as n rest, t = { s with port := p, answers := as, delayReturns := n, host := rest }) ∨
        ∃ a b rest, s.host = .poke a b :: rest ∧ t = { s with mem := Memory.write s.mem a.toNat b, host := rest } := by
    rintro m rest hh hm rfl
    obtain ⟨p, as, n, e⟩ | ⟨a, b, rfl, e⟩ := outsideMove_cases { s with host := rest } hm
    · exact .inl ⟨p, as, n, rest, e⟩
    · exact .inr ⟨a, b, rest, hh, e⟩
  by_cases hc : configOk s = true
  · refine ⟨hc, ?_⟩
    rw [step_live hc hn] at h
    rcases Option.eq_none_or_eq_some s.fault with hf | ⟨c, hf⟩
    · rcases Option.eq_none_or_eq_some s.port with hp | ⟨d, hp⟩
      · rw [liveTurn_turn hf hp] at h
        obtain ⟨m, rest, hh, hm, e⟩ | hb := turn_cases h hn
        · exact .inr ((outside m rest hh hm e).imp_right .inl)
        · exact .inr (.inr (.inr ⟨hf, hp, hb⟩))
      · rw [liveTurn_port hf hp] at h
        exact .inl ⟨hf, d, hp, h⟩
    · rw [liveTurn_stopped hf] at h
      unfold stoppedTurn at h
      split at h
      · cases h
      · rename_i m rest hh
        cases h
        exact .inr ((outside m rest hh (fun e => hn rest (e ▸ hh)) rfl).imp_right .inl)
  · rw [step_refused (by simpa using hc)] at h; cases h

/-- Everything the block's own step can do. -/
theorem blockStep_cases {s t : State} (h : blockStep s = .next t) :
    (s.pending ≠ none ∧ t = settle s) ∨
      (s.pending = none ∧ s.busy = true ∧ ∃ m, microOp s = some m ∧ runMicroOp m s = .next t) ∨
      (s.pending = none ∧ s.busy = false ∧ t = s) := by
  unfold blockStep at h
  split at h
  · cases h
    exact .inl ⟨by simp_all, rfl⟩
  · split at h
    · split at h
      · cases h
      · exact .inr (.inl ⟨‹_›, ‹_›, _, ‹_›, h⟩)
    · cases h
      exact .inr (.inr ⟨‹_›, by simp_all, rfl⟩)

theorem blockStep_micro {s : State} {m : MicroOp} (hp : s.pending = none) (hb : s.busy = true)
    (hm : microOp s = some m) : blockStep s = runMicroOp m s := by
  simp [blockStep, hp, hb, hm]

/-! ## Requests and wire commands -/

/-- A latch writes operand registers only (R121). -/
def OperandsOnly (f : State → State) : Prop :=
  ∀ u, f u = { u with
    x0 := (f u).x0, y0 := (f u).y0, x1 := (f u).x1, y1 := (f u).y1, color := (f u).color, ptr := (f u).ptr
    len := (f u).len, orient := (f u).orient, inv := (f u).inv, cur := (f u).cur, rem := (f u).rem, pat := (f u).pat }

section Requests

variable (x y w h c : Half) (p l : Word) (o : BitVec 2) (b : Bool) (s : State)

theorem exec_init : exec .init s = accept .init none id s := rfl
theorem exec_uninit : exec .uninit s = accept .uninit none id s := rfl
theorem exec_pixelDraw : exec (.pixelDraw x y c) s = accept .pixelDraw none (latchPixel x y c) s := rfl
theorem exec_rectDraw :
    exec (.rectDraw x y w h c) s = accept .rectDraw (checkRect x y w h) (latchRect x y w h c) s := rfl
theorem exec_bufferDraw :
    exec (.bufferDraw x y w h p l) s =
      accept .bufferDraw (checkBuffer s.cfg x y w h p l) (latchBuffer x y w h p l) s := rfl
theorem exec_rotationSet : exec (.rotationSet o) s = accept .rotationSet none (latchOrient o) s := rfl
theorem exec_displayInvert : exec (.displayInvert b) s = accept .displayInvert none (latchInv b) s := rfl
theorem exec_display : exec .display s = accept .display none id s := rfl

end Requests

/-- A request's meaning is acceptance with a latch that writes operand registers only. -/
theorem exec_request (i : Instr) (s : State) (hi : i.isWire = false) :
    ∃ o c f, exec i s = accept o c f s ∧ OperandsOnly f := by
  cases i with
  | init => exact ⟨_, _, _, exec_init s, fun _ => rfl⟩
  | uninit => exact ⟨_, _, _, exec_uninit s, fun _ => rfl⟩
  | pixelDraw x y c => exact ⟨_, _, _, exec_pixelDraw x y c s, fun _ => rfl⟩
  | rectDraw x y w h c => exact ⟨_, _, _, exec_rectDraw x y w h c s, fun _ => rfl⟩
  | bufferDraw x y w h p l => exact ⟨_, _, _, exec_bufferDraw x y w h p l s, fun _ => rfl⟩
  | rotationSet o => exact ⟨_, _, _, exec_rotationSet o s, fun _ => rfl⟩
  | displayInvert b => exact ⟨_, _, _, exec_displayInvert b s, fun _ => rfl⟩
  | display => exact ⟨_, _, _, exec_display s, fun _ => rfl⟩
  | _ => cases hi

/-- A wire command's meaning is writeCommand of its byte (R141). -/
theorem exec_wire (i : Instr) (s : State) (h : i.isWire = true) :
    exec i s = engineStep (writeCommand (cmdCode i)) s := by
  cases i <;> first | rfl | cases h

/-- A command byte of a micro-program, run by a ready ENGINE. -/
theorem runCommandByte_next {b : Byte} {s t : State} (h : runCommandByte b s = .next t) :
    s.fault = none ∧ s.busy = true ∧ s.pending = none ∧ t = writeCommand b s := by
  unfold runCommandByte at h
  split at h
  · cases h
  · rename_i i hi
    obtain ⟨hw, rfl⟩ := decodeWire_ok hi
    rw [exec_wire i s hw] at h
    exact engineStep_next h

/-- A presented descriptor: a fault recorded and nothing else, or the decoded request's meaning. -/
theorem acceptPort_next {d : Descriptor} {s t : State} (hf : s.fault = none) (h : acceptPort d s = .next t) :
    (∃ c, t = { s with fault := some c }) ∨ (s.busy = false ∧ ∃ i, decodeRequest d = .ok i ∧ exec i s = .next t) := by
  unfold acceptPort at h
  split at h
  · rw [raise_first hf] at h; cases h; exact .inl ⟨_, rfl⟩
  · split at h
    · rw [raise_first hf] at h; cases h; exact .inl ⟨_, rfl⟩
    · exact .inr ⟨by simp_all, _, ‹_›, h⟩

/-- A decoded descriptor is a request. -/
theorem decodeRequest_request {d : Descriptor} {i : Instr} (h : decodeRequest d = .ok i) : i.isWire = false := by
  unfold decodeRequest at h
  split at h
  · cases h
  · split at h <;> cases h <;> rfl

end Sys2Proof.Laws
end

