-- ==== Sys2Proof/Laws/Frame.lean ====
section
/-! SUPPORT. What the block's own step leaves alone, and the shape of the micro-programs. -/

namespace Sys2Proof.Laws

open Sys2Proof.Machine Sys2Proof.Safety

/-! ## The frame of the block's own step -/

/-- What no micro-operation and no answer writes: the configuration, OP, the operand registers, PAT, RST, FAULT, the port,
the outside world's moves, the requests taken and host memory; TRACE and the received responses only grow. -/
structure BlockFrame (s t : State) : Prop where
  cfg : t.cfg = s.cfg
  op : t.op = s.op
  x0 : t.x0 = s.x0
  y0 : t.y0 = s.y0
  x1 : t.x1 = s.x1
  y1 : t.y1 = s.y1
  color : t.color = s.color
  ptr : t.ptr = s.ptr
  len : t.len = s.len
  orient : t.orient = s.orient
  inv : t.inv = s.inv
  pat : t.pat = s.pat
  rst : t.rst = s.rst
  fault : t.fault = s.fault
  port : t.port = s.port
  host : t.host = s.host
  requests : t.requests = s.requests
  mem : t.mem = s.mem
  trace : ∃ es, t.trace = s.trace ++ es
  responses : ∃ rs, t.responses = s.responses ++ rs

/-- A state that differs only in the fields a micro-operation may write. -/
theorem BlockFrame.of_eq {s t : State} (es : List Event) (rs : List Status)
    (h : t = { s with
      lc := t.lc, busy := t.busy, seq := t.seq, cur := t.cur, rem := t.rem, dc := t.dc, resp := t.resp
      trace := s.trace ++ es, pending := t.pending, answers := t.answers, delayReturns := t.delayReturns
      responses := s.responses ++ rs, freeDraws := t.freeDraws }) : BlockFrame s t := by
  rw [h]
  exact ⟨rfl, rfl, rfl, rfl, rfl, rfl, rfl, rfl, rfl, rfl, rfl, rfl, rfl, rfl, rfl, rfl, rfl, rfl, ⟨es, rfl⟩, ⟨rs, rfl⟩⟩

theorem BlockFrame.same (s : State) : BlockFrame s s := .of_eq [] [] (by simp)

theorem BlockFrame.trans {s t u : State} (h : BlockFrame s t) (k : BlockFrame t u) : BlockFrame s u where
  cfg := k.cfg.trans h.cfg
  op := k.op.trans h.op
  x0 := k.x0.trans h.x0
  y0 := k.y0.trans h.y0
  x1 := k.x1.trans h.x1
  y1 := k.y1.trans h.y1
  color := k.color.trans h.color
  ptr := k.ptr.trans h.ptr
  len := k.len.trans h.len
  orient := k.orient.trans h.orient
  inv := k.inv.trans h.inv
  pat := k.pat.trans h.pat
  rst := k.rst.trans h.rst
  fault := k.fault.trans h.fault
  port := k.port.trans h.port
  host := k.host.trans h.host
  requests := k.requests.trans h.requests
  mem := k.mem.trans h.mem
  trace := by
    obtain ⟨es, he⟩ := h.trace
    obtain ⟨fs, hf⟩ := k.trace
    exact ⟨es ++ fs, by rw [hf, he, List.append_assoc]⟩
  responses := by
    obtain ⟨es, he⟩ := h.responses
    obtain ⟨fs, hf⟩ := k.responses
    exact ⟨es ++ fs, by rw [hf, he, List.append_assoc]⟩

theorem frame_emit (e : Event) (s : State) : BlockFrame s (emit e s) := .of_eq [e] [] (by simp [emit])

theorem frame_driveDc (l : Level) (s : State) : BlockFrame s (driveDc l s) := .of_eq [.dc l] [] (by simp [driveDc, emit])

theorem frame_advance (s : State) : BlockFrame s (advance s) := .of_eq [] [] (by simp [advance])

theorem frame_setLc (v : Lc) (s : State) : BlockFrame s (setLc v s) := .of_eq [] [] (by simp [setLc])

theorem frame_respond (st : Status) (s : State) : BlockFrame s (respond st s) := .of_eq [] [st] (by simp [respond])

theorem frame_transferFailed (s : State) : BlockFrame s (transferFailed s) := by
  obtain ⟨-, h⟩ | ⟨-, h⟩ | ⟨-, h⟩ := transferFailed_cases s <;> rw [h]
  · exact frame_advance s
  · exact (frame_setLc _ s).trans (frame_respond _ _)
  · exact frame_respond _ s

theorem frame_acquireDone (r : Answer) (s : State) : BlockFrame s (acquireDone r s) := by
  cases r with
  | ok => exact (frame_emit _ s).trans (frame_advance _)
  | err => exact (frame_emit _ s).trans (frame_respond _ _)

theorem frame_unitDone (l : Level) (b : Byte) (r : Answer) (s : State) : BlockFrame s (unitDone l b r s) := by
  cases r with
  | ok => exact (frame_emit _ s).trans (frame_advance _)
  | err => exact (frame_emit _ s).trans (frame_transferFailed _)

theorem frame_chunkDone (src : Src) (bs : List Byte) (r : Answer) (s : State) :
    BlockFrame s (chunkDone src bs r s) := by
  cases r with
  | ok => exact .of_eq [.xfer .data bs .ok] [] (by rw [chunkDone_ok]; simp)
  | err => exact (frame_emit _ s).trans (frame_transferFailed _)

theorem frame_settle (s : State) : BlockFrame s (settle s) := by
  obtain h | ⟨r, rest, -, -, h⟩ | ⟨l, b, r, rest, -, -, h⟩ | ⟨src, bs, r, rest, -, -, h⟩ | ⟨ms, n, -, -, h⟩ :=
    settle_cases s <;> rw [h]
  · exact .same s
  · exact (BlockFrame.of_eq [] [] (by simp)).trans (frame_acquireDone _ _)
  · exact (BlockFrame.of_eq [] [] (by simp)).trans (frame_unitDone _ _ _ _)
  · exact (BlockFrame.of_eq [] [] (by simp)).trans (frame_chunkDone _ _ _ _)
  · exact (BlockFrame.of_eq [] [] (by simp)).trans (frame_advance _)

theorem frame_callOut (p : Pending) (s : State) : BlockFrame s (callOut p s) :=
  (BlockFrame.of_eq [] [] (by simp)).trans (frame_settle _)

theorem frame_runMicroOp {m : MicroOp} {s t : State} (h : runMicroOp m s = .next t) : BlockFrame s t := by
  cases m with
  | writeCommand b =>
    obtain ⟨-, -, -, rfl⟩ := runCommandByte_next h
    exact (frame_driveDc _ s).trans (frame_callOut _ _)
  | writeData b => cases h; exact (frame_driveDc _ s).trans (frame_callOut _ _)
  | streamBegin => cases h; exact (frame_driveDc _ s).trans (frame_advance _)
  | streamChunk src =>
    obtain ⟨-, rfl⟩ | ⟨-, -, rfl⟩ := streamChunk_next h
    · exact frame_advance s
    · exact frame_callOut _ s
  | streamEnd => cases h; exact (frame_driveDc _ s).trans (frame_advance _)
  | wait ms => cases h; exact (frame_emit _ s).trans (frame_callOut _ _)
  | acquire => cases h; exact frame_callOut _ s
  | release => cases h; exact (frame_emit _ s).trans (frame_advance _)
  | respond lc =>
    cases h
    cases lc with
    | none => exact frame_respond _ s
    | some v => exact (frame_setLc _ s).trans (frame_respond _ _)

/-- The frame of the block's own step. -/
theorem frame_blockStep {s t : State} (h : blockStep s = .next t) : BlockFrame s t := by
  obtain ⟨-, rfl⟩ | ⟨-, -, m, -, h⟩ | ⟨-, -, rfl⟩ := blockStep_cases h
  · exact frame_settle s
  · exact frame_runMicroOp h
  · exact .same t

/-! ## DC, SEQ and LC through a call -/

theorem transferFailed_dc (s : State) : (transferFailed s).dc = s.dc := by
  obtain ⟨-, h⟩ | ⟨-, h⟩ | ⟨-, h⟩ := transferFailed_cases s <;> rw [h] <;> simp

theorem transferFailed_seq (s : State) : (transferFailed s).seq = s.seq ∨ (transferFailed s).seq = s.seq + 1 := by
  obtain ⟨-, h⟩ | ⟨-, h⟩ | ⟨-, h⟩ := transferFailed_cases s <;> rw [h] <;> simp

theorem transferFailed_lc (s : State) (hl : (transferFailed s).lc ≠ s.lc) : s.op = opCode .init := by
  revert hl
  obtain ⟨h0, h⟩ | ⟨h0, h⟩ | ⟨h0, h⟩ := transferFailed_cases s <;> rw [h] <;> simp [h0]

/-- An answer never drives DC. -/
theorem settle_dc (s : State) : (settle s).dc = s.dc := by
  obtain h | ⟨r, rest, -, -, h⟩ | ⟨l, b, r, rest, -, -, h⟩ | ⟨src, bs, r, rest, -, -, h⟩ | ⟨ms, n, -, -, h⟩ :=
    settle_cases s <;> rw [h]
  · cases r <;> simp [acquireDone]
  · cases r
    · simp [unitDone]
    · exact transferFailed_dc _
  · cases r
    · rw [chunkDone_ok]
    · exact transferFailed_dc _
  · simp

/-- An answer advances SEQ by at most 1. -/
theorem settle_seq (s : State) : (settle s).seq = s.seq ∨ (settle s).seq = s.seq + 1 := by
  obtain h | ⟨r, rest, -, -, h⟩ | ⟨l, b, r, rest, -, -, h⟩ | ⟨src, bs, r, rest, -, -, h⟩ | ⟨ms, n, -, -, h⟩ :=
    settle_cases s <;> rw [h]
  · exact .inl rfl
  · cases r <;> simp [acquireDone]
  · cases r
    · simp [unitDone]
    · exact transferFailed_seq (emit _ { s with pending := none, answers := rest })
  · cases r
    · rw [chunkDone_ok]
      split <;> simp
    · exact transferFailed_seq (emit _ { s with pending := none, answers := rest })
  · simp

/-- An answer changes LC only in INIT. -/
theorem settle_lc (s : State) (hl : (settle s).lc ≠ s.lc) : s.op = opCode .init := by
  revert hl
  obtain h | ⟨r, rest, -, -, h⟩ | ⟨l, b, r, rest, -, -, h⟩ | ⟨src, bs, r, rest, -, -, h⟩ | ⟨ms, n, -, -, h⟩ :=
    settle_cases s <;> rw [h]
  · simp
  · cases r <;> simp [acquireDone]
  · cases r
    · simp [unitDone]
    · exact transferFailed_lc (emit _ { s with pending := none, answers := rest })
  · cases r
    · rw [chunkDone_ok]; simp
    · exact transferFailed_lc (emit _ { s with pending := none, answers := rest })
  · simp

theorem callOut_dc (p : Pending) (s : State) : (callOut p s).dc = s.dc := settle_dc _

theorem callOut_seq (p : Pending) (s : State) : (callOut p s).seq = s.seq ∨ (callOut p s).seq = s.seq + 1 :=
  settle_seq { s with pending := some p }

theorem callOut_lc (p : Pending) (s : State) (hl : (callOut p s).lc ≠ s.lc) : s.op = opCode .init :=
  settle_lc { s with pending := some p } hl

/-! ## The frame of acceptance -/

/-- What taking a presented descriptor leaves alone. -/
theorem acceptPort_frame {d : Descriptor} {s t : State} (hf : s.fault = none) (h : acceptPort d s = .next t) :
    t.cfg = s.cfg ∧ t.lc = s.lc ∧ t.dc = s.dc ∧ t.rst = s.rst ∧ t.resp = s.resp ∧ t.trace = s.trace ∧
      t.pending = s.pending ∧ t.host = s.host ∧ t.responses = s.responses ∧
      t.requests = s.requests ∧ t.mem = s.mem := by
  obtain ⟨c, rfl⟩ | ⟨-, i, hd, he⟩ := acceptPort_next hf h
  · simp
  · obtain ⟨o, c, f, e, ho⟩ := exec_request i s (decodeRequest_request hd)
    rw [e] at he
    obtain ⟨-, ⟨d, rfl⟩ | ⟨-, -, -, rfl⟩⟩ := accept_next he
    · simp
    · rw [ho]
      simp [beginRequest]

/-- A descriptor presented to a busy block changes nothing but FAULT (R121). -/
theorem acceptPort_busy {d : Descriptor} {s t : State} (hf : s.fault = none) (hb : s.busy = true)
    (h : acceptPort d s = .next t) : t = { s with fault := some .reentrant } := by
  rw [acceptPort, hb, raise_first hf] at h
  cases h
  rfl

/-! ## The micro-programs -/

/-- Every micro-program ends in respond, and only its end is one. -/
theorem microProgram_shape (o : Op) (s : State) :
    ∃ body lc, microProgram o s = body ++ [.respond lc] ∧ ∀ v, MicroOp.respond v ∉ body := by
  cases o with
  | init =>
    refine ⟨(microProgram .init s).dropLast, some .ready, ?_, ?_⟩ <;>
      simp [microProgram, initProgram, addressParams]
  | uninit => exact ⟨[.release], _, rfl, by simp⟩
  | pixelDraw =>
    exact ⟨setWindow s.x0 s.y0 s.x1 s.y1 ++ [.streamBegin, .streamChunk .pix, .streamEnd], none,
      by simp [microProgram, drawProgram], by simp [setWindow, addressParams]⟩
  | rectDraw =>
    exact ⟨setWindow s.x0 s.y0 s.x1 s.y1 ++ [.streamBegin, .streamChunk .pat, .streamEnd], none,
      by simp [microProgram, drawProgram], by simp [setWindow, addressParams]⟩
  | bufferDraw =>
    exact ⟨setWindow s.x0 s.y0 s.x1 s.y1 ++ [.streamBegin, .streamChunk .mem, .streamEnd], none,
      by simp [microProgram, drawProgram], by simp [setWindow, addressParams]⟩
  | rotationSet => exact ⟨[.writeCommand _, .writeData _], _, rfl, by simp⟩
  | displayInvert => exact ⟨[.writeCommand _], _, rfl, by simp⟩
  | display => exact ⟨[], _, rfl, by simp⟩

/-- After a micro-operation that is no respond there is another. -/
theorem microProgram_next {o : Op} {s : State} {n : Nat} {m : MicroOp} (h : (microProgram o s)[n]? = some m)
    (hm : ∀ v, m ≠ .respond v) : n + 1 < (microProgram o s).length := by
  obtain ⟨body, lc, hp, hb⟩ := microProgram_shape o s
  rw [hp] at h ⊢
  have hn : n < (body ++ [MicroOp.respond lc]).length := (List.getElem?_eq_some_iff.1 h).1
  rcases Nat.lt_or_ge n body.length with hlt | hge
  · simp; omega
  · have : n = body.length := by simp at hn; omega
    subst this
    simp at h
    exact absurd h.symm (hm lc)

/-- The micro-operation at SEQ of a running request. -/
theorem microOp_eq {o : Op} {s : State} (h : s.op = opCode o) : microOp s = (microProgram o s)[s.seq]? := by
  simp [microOp, h]

/-- A micro-program reads the configuration and the operand registers X0 to Y1, ORIENT and INV. -/
theorem microProgram_congr {s t : State} (o : Op) (hc : t.cfg = s.cfg) (h0 : t.x0 = s.x0) (h1 : t.y0 = s.y0)
    (h2 : t.x1 = s.x1) (h3 : t.y1 = s.y1) (h4 : t.orient = s.orient) (h5 : t.inv = s.inv) :
    microProgram o t = microProgram o s := by
  cases o <;> simp [microProgram, drawProgram, hc, h0, h1, h2, h3, h4, h5]

/-- The block's own step keeps the micro-program. -/
theorem BlockFrame.program_eq {s t : State} (h : BlockFrame s t) (o : Op) : microProgram o t = microProgram o s :=
  microProgram_congr o h.cfg h.x0 h.y0 h.x1 h.y1 h.orient h.inv

end Sys2Proof.Laws
end

