-- ==== Sys2Proof/Laws/Observer.lean ====
section
/-! SUPPORT. What the observer makes of the events of a window-set and a stream (R51). -/

namespace Sys2Proof.Laws

open Sys2Proof.Machine Sys2Proof.Safety

/-- A 16-bit value sent high byte first is received as itself (R110). -/
@[simp] theorem halfOf_hi_lo (v : Half) : halfOf (hi v) (lo v) = v := by
  show (BitVec.extractLsb' 8 8 v ++ BitVec.extractLsb' 0 8 v : BitVec (8 + 8)) = v
  ext i h
  simp only [BitVec.getElem_append, BitVec.getElem_extractLsb']
  split
  · simp [BitVec.getLsbD_eq_getElem h]
  · rw [show 8 + (i - 8) = i by omega, BitVec.getLsbD_eq_getElem h]

theorem after_append (a b : List Event) : Observer.after (a ++ b) = b.foldl Observer.event (Observer.after a) := by
  simp [Observer.after]

section Commands

variable (o : Observer) (l : Level) (b : Byte) (bs : List Byte) (r : Answer) (ms : Nat)

@[simp] theorem event_dc : o.event (.dc l) = o := rfl
@[simp] theorem event_wait : o.event (.wait ms) = o := rfl
@[simp] theorem event_acquire : o.event (.acquire r) = o := rfl
@[simp] theorem event_release : o.event .release = o := rfl
@[simp] theorem event_command : o.event (.xfer .cmd [b] r) = o.command b r := rfl
@[simp] theorem event_data : o.event (.xfer .data bs r) = o.data bs r := by
  cases bs with
  | nil => rfl
  | cons b bs => cases bs <;> rfl

theorem command_caset : o.command 0x2A#8 .ok = { o.endStream with params := some (.col, []) } := rfl
theorem command_raset : o.command 0x2B#8 .ok = { o.endStream with params := some (.row, []) } := rfl
theorem command_ramwr : o.command 0x2C#8 .ok = o.endStream.arm := rfl
theorem command_caset_err : o.command 0x2A#8 .err = o.endStream.fail := rfl
theorem command_raset_err : o.command 0x2B#8 .err = o.endStream.fail := rfl
theorem command_ramwr_err : o.command 0x2C#8 .err = o.endStream.fail := rfl

theorem data_armed (h : o.armed = true) : o.data bs .ok = { o with got := o.got + bs.length } := by
  simp [Observer.data, h]

end Commands

/-- CASET with its four parameters (R246). -/
theorem foldl_caset (o : Observer) (v w : Half) :
    (addressEvents 0x2A v w).foldl Observer.event o =
      { o.endStream with colFresh := true, col := some (v, w) } := by
  simp [addressEvents, commandEvents, halfEvents, dataEvents, command_caset, Observer.data, Observer.address,
    Observer.endStream]

/-- RASET with its four parameters (R247). -/
theorem foldl_raset (o : Observer) (v w : Half) :
    (addressEvents 0x2B v w).foldl Observer.event o =
      { o.endStream with rowFresh := true, row := some (v, w) } := by
  simp [addressEvents, commandEvents, halfEvents, dataEvents, command_raset, Observer.data, Observer.address,
    Observer.endStream]

/-- Delivered chunks of an armed stream. -/
theorem foldl_chunks (chunks : List (List Byte)) :
    ∀ o : Observer, o.armed = true →
      (chunks.map (fun bs => Event.xfer .data bs .ok)).foldl Observer.event o =
        { o with got := o.got + chunks.flatten.length } := by
  induction chunks with
  | nil => intro o _; simp
  | cons c cs ih =>
    intro o h
    rw [List.map_cons, List.foldl_cons, event_data, data_armed o c h, ih { o with got := o.got + c.length } h]
    simp [Nat.add_assoc]

end Sys2Proof.Laws
end

