-- ==== Sys2Proof/Laws/PerInstr.lean ====
section
/-! SUPPORT. Statements about every instruction, one lemma per constructor. -/

/-- The code of an instruction is a legal one of its own form: a request's descriptor is outside the reserved space of
R104, and a wire command's byte is one of R108 that stands for it alone. -/
def Sys2Proof.Laws.EncodeLegal.Statement (i : Sys2Proof.Instr) : Prop :=
  match Sys2Proof.encode i with
  | .request d => i.isWire = false ∧ d.wf = true
  | .wire b => i.isWire = true ∧ ∀ j : Sys2Proof.Instr, Sys2Proof.decodeWire b = .ok j ↔ j = i

namespace Sys2Proof.Laws.EncodeLegal

/-- A descriptor built from fields, with a defined OP, is legal. -/
theorem request_legal (c : Half) (v : Bool) (o : BitVec 2) (p : BitVec 4) (w1 w2 w3 w4 : Word) (h1 : 1 ≤ p.toNat)
    (h8 : p.toNat ≤ 8) : Descriptor.wf { w0 := word0 c v o p, w1 := w1, w2 := w2, w3 := w3, w4 := w4 } = true := by
  rw [wf_iff]
  exact ⟨bits_rsv0 c v o p, bits_rsv1 c v o p, by simpa [Descriptor.op] using h1, by simpa [Descriptor.op] using h8⟩

/-- A wire command's byte stands for it alone. -/
theorem wire_legal (i j : Instr) (h : i.isWire = true) : decodeWire (cmdCode i) = .ok j ↔ j = i := by
  rw [decodeWire_cmdCode i h]
  constructor
  · intro e; cases e; rfl
  · intro e; rw [e]

theorem init : Statement .init := ⟨rfl, by decide⟩
theorem uninit : Statement .uninit := ⟨rfl, by decide⟩
theorem pixelDraw (x y color : Half) : Statement (.pixelDraw x y color) :=
  ⟨rfl, request_legal _ _ _ _ _ _ _ _ (by decide) (by decide)⟩
theorem rectDraw (x y w h color : Half) : Statement (.rectDraw x y w h color) :=
  ⟨rfl, request_legal _ _ _ _ _ _ _ _ (by decide) (by decide)⟩
theorem bufferDraw (x y w h : Half) (ptr len : Word) : Statement (.bufferDraw x y w h ptr len) :=
  ⟨rfl, request_legal _ _ _ _ _ _ _ _ (by decide) (by decide)⟩
theorem rotationSet (orient : BitVec 2) : Statement (.rotationSet orient) :=
  ⟨rfl, request_legal _ _ _ _ _ _ _ _ (by decide) (by decide)⟩
theorem displayInvert (inv : Bool) : Statement (.displayInvert inv) :=
  ⟨rfl, request_legal _ _ _ _ _ _ _ _ (by decide) (by decide)⟩
theorem display : Statement .display := ⟨rfl, by decide⟩
theorem swreset : Statement .swreset := ⟨rfl, fun j => wire_legal .swreset j rfl⟩
theorem slpout : Statement .slpout := ⟨rfl, fun j => wire_legal .slpout j rfl⟩
theorem noron : Statement .noron := ⟨rfl, fun j => wire_legal .noron j rfl⟩
theorem invoff : Statement .invoff := ⟨rfl, fun j => wire_legal .invoff j rfl⟩
theorem invon : Statement .invon := ⟨rfl, fun j => wire_legal .invon j rfl⟩
theorem dispon : Statement .dispon := ⟨rfl, fun j => wire_legal .dispon j rfl⟩
theorem caset : Statement .caset := ⟨rfl, fun j => wire_legal .caset j rfl⟩
theorem raset : Statement .raset := ⟨rfl, fun j => wire_legal .raset j rfl⟩
theorem ramwr : Statement .ramwr := ⟨rfl, fun j => wire_legal .ramwr j rfl⟩
theorem madctl : Statement .madctl := ⟨rfl, fun j => wire_legal .madctl j rfl⟩
theorem colmod : Statement .colmod := ⟨rfl, fun j => wire_legal .colmod j rfl⟩

end Sys2Proof.Laws.EncodeLegal
end

