-- ==== Sys2Proof/Laws/Run.lean ====
section
/-! SUPPORT. Runs of several steps where every answer is `ok` and the outside world has no move. -/

namespace Sys2Proof.Laws

open Sys2Proof.Machine Sys2Proof.Safety

@[simp] theorem steps_zero (s : State) : steps 0 s = .next s := rfl

theorem steps_next {k : Nat} {s t : State} (h : step s = .next t) : steps (k + 1) s = steps k t := by
  have h' : core.step s = .next t := h
  simp only [steps, Host.Core.run, h']
  rfl

/-- A run that answers a next state goes on from there. -/
theorem steps_add {a b : Nat} {s t : State} (h : steps a s = .next t) : steps (a + b) s = steps b t := by
  induction a generalizing s with
  | zero => cases h; simp
  | succ a ih =>
    cases hs : step s with
    | next u =>
      rw [steps_next hs] at h
      rw [show a + 1 + b = a + b + 1 by omega, steps_next hs, ih h]
    | fault r =>
      have hs' : core.step s = .fault r := hs
      simp only [steps, Host.Core.run, hs'] at h
      cases h
    | refused r =>
      have hs' : core.step s = .refused r := hs
      simp only [steps, Host.Core.run, hs'] at h
      cases h

/-- A request runs undisturbed: an admitted configuration, a ready ENGINE, nothing presented, no outside move. -/
def Undisturbed (s : State) : Prop := configOk s = true ∧ engineReady s ∧ s.port = none ∧ s.host = []

/-- The step of an undisturbed request is the micro-operation at SEQ. -/
theorem step_micro {s : State} {m : MicroOp} (h : Undisturbed s) (hm : microOp s = some m) :
    step s = runMicroOp m s := by
  rw [step_block h.1 h.2.1.1 h.2.2.1 h.2.2.2, blockStep_micro h.2.1.2.2 h.2.1.2.1 hm]

/-- A micro-operation that sends one unit: its level and byte. -/
def unitOf : MicroOp → Option (Level × Byte)
  | .writeCommand b => if (decodeWire b).isOk then some (.cmd, b) else none
  | .writeData b => some (.data, b)
  | _ => none

/-- A unit answered `ok`. -/
theorem runMicroOp_unit {m : MicroOp} {l : Level} {b : Byte} {s : State} {rest : List Answer}
    (h : engineReady s) (hm : unitOf m = some (l, b)) (ha : s.answers = .ok :: rest) :
    runMicroOp m s =
      .next { s with
        dc := some l, trace := s.trace ++ [.dc l, .xfer l [b] .ok], answers := rest, seq := s.seq + 1 } := by
  cases m with
  | writeCommand c =>
    simp only [unitOf] at hm
    split at hm
    · cases hm
      rename_i hd
      cases he : decodeWire b with
      | error e => rw [he] at hd; cases hd
      | ok i =>
        obtain ⟨hw, rfl⟩ := decodeWire_ok he
        rw [runMicroOp, runCommandByte, he]
        simp only
        rw [exec_wire i s hw, engineStep_ready h.1 h.2.1 h.2.2]
        simp [writeCommand, callOut_unit, ha, unitDone, driveDc, emit, advance, h.2.2]
    · cases hm
  | writeData c =>
    cases hm
    simp [runMicroOp, writeData, callOut_unit, ha, unitDone, driveDc, emit, advance, h.2.2]
  | _ => cases hm

/-- The events of a list of units. -/
def unitEvents (us : List (Level × Byte)) : List Event := us.flatMap fun u => [.dc u.1, .xfer u.1 [u.2] .ok]

/-- The level after a list of units. -/
def levelAfter (d : Option Level) (us : List (Level × Byte)) : Option Level := us.foldl (fun _ u => some u.1) d

/-- A run of consecutive units of the micro-program, every answer `ok`. -/
theorem steps_units (o : Op) (us : List (Level × Byte)) :
    ∀ (s : State) (rest : List Answer), Undisturbed s → s.op = opCode o →
      (∀ k u, us[k]? = some u → ∃ m, (microProgram o s)[s.seq + k]? = some m ∧ unitOf m = some u) →
      s.answers = List.replicate us.length .ok ++ rest →
      steps us.length s =
        .next { s with
          seq := s.seq + us.length, dc := levelAfter s.dc us, answers := rest, trace := s.trace ++ unitEvents us } := by
  induction us with
  | nil =>
    intro s rest _ _ _ ha
    have : s.answers = rest := by simpa using ha
    subst this
    simp [levelAfter, unitEvents]
  | cons u us ih =>
    intro s rest h ho hm ha
    obtain ⟨m, h0, hu⟩ := hm 0 u rfl
    have hs := (step_micro h ((microOp_eq ho).trans h0)).trans
      (runMicroOp_unit h.2.1 hu (rest := List.replicate us.length .ok ++ rest) (by simpa [List.replicate_succ] using ha))
    rw [List.length_cons, steps_next hs]
    refine Eq.trans (ih _ rest ?_ ?_ (fun k v hk => ?_) ?_) ?_
    · exact h
    · exact ho
    · obtain ⟨m, hm, hu⟩ := hm (k + 1) v (by simpa using hk)
      refine ⟨m, Eq.trans (congrArg₂ (fun p n => p[n]?) (microProgram_congr o rfl rfl rfl rfl rfl rfl rfl) ?_) hm, hu⟩
      show s.seq + 1 + k = s.seq + (k + 1)
      omega
    · rfl
    · simp [levelAfter, unitEvents, Nat.add_assoc, Nat.add_comm 1]

/-! ## The rest of a drawing request -/

/-- The eleven units of a window-set (R160). -/
def windowUnits (x0 y0 x1 y1 : Half) : List (Level × Byte) :=
  [(.cmd, 0x2A), (.data, hi x0), (.data, lo x0), (.data, hi x1), (.data, lo x1), (.cmd, 0x2B), (.data, hi y0),
    (.data, lo y0), (.data, hi y1), (.data, lo y1), (.cmd, 0x2C)]

/-- A drawing request's micro-program begins with them. -/
theorem drawProgram_units (src : Src) (s : State) (k : Nat) (u : Level × Byte)
    (hk : (windowUnits s.x0 s.y0 s.x1 s.y1)[k]? = some u) :
    ∃ m, (drawProgram src s)[k]? = some m ∧ unitOf m = some u := by
  have hlt := (List.getElem?_eq_some_iff.1 hk).1
  simp only [windowUnits, List.length_cons, List.length_nil] at hlt
  rcases (by omega : k = 0 ∨ k = 1 ∨ k = 2 ∨ k = 3 ∨ k = 4 ∨ k = 5 ∨ k = 6 ∨ k = 7 ∨ k = 8 ∨ k = 9 ∨ k = 10) with
    rfl | rfl | rfl | rfl | rfl | rfl | rfl | rfl | rfl | rfl | rfl <;> cases hk <;> exact ⟨_, rfl, rfl⟩

theorem step_streamBegin {s : State} (h : Undisturbed s) (hm : microOp s = some .streamBegin) :
    step s = .next (streamBegin s) := (step_micro h hm).trans rfl

theorem step_streamEnd {s : State} (h : Undisturbed s) (hm : microOp s = some .streamEnd) :
    step s = .next (streamEnd s) := (step_micro h hm).trans rfl

theorem step_respond {s : State} {lc : Option Lc} (h : Undisturbed s) (hm : microOp s = some (.respond lc)) :
    step s = .next (finish lc s) := (step_micro h hm).trans rfl

theorem fillChunks_small (c : Half) {n : Nat} (h1 : 1 ≤ n) (h16 : n ≤ 16) : fillChunks c n = [colorBytes c n] := by
  unfold fillChunks
  by_cases h : n = 16
  · subst h; rfl
  · rw [Nat.div_eq_of_lt (by omega), Nat.mod_eq_of_lt (by omega), if_neg (by omega)]
    rfl

theorem fillChunks_large (c : Half) {n : Nat} (h16 : 16 < n) :
    fillChunks c n = colorBytes c 16 :: fillChunks c (n - 16) := by
  unfold fillChunks
  rw [show n / 16 = (n - 16) / 16 + 1 by omega, show (n - 16) % 16 = n % 16 by omega, List.replicate_succ]
  rfl

/-- One chunk of a fill, answered `ok`. -/
theorem step_fill {s : State} {rest : List Answer} (h : Undisturbed s) (hm : microOp s = some (.streamChunk .pat))
    (h0 : s.rem ≠ 0) (ha : s.answers = .ok :: rest) :
    step s =
      .next { s with
        trace := s.trace ++ [.xfer .data (s.pat.toList.take (min s.rem.toNat 32)) .ok]
        answers := rest
        rem := BitVec.ofNat 32 (s.rem.toNat - min s.rem.toNat 32)
        seq := if s.rem.toNat - min s.rem.toNat 32 = 0 then s.seq + 1 else s.seq } := by
  rw [step_micro h hm, runMicroOp, streamChunk_sends h0 rfl, callOut_chunk]
  have hl : (s.pat.toList.take (min s.rem.toNat 32)).length = min s.rem.toNat 32 := by simp
  simp only [ha, chunkDone_ok, chunkBytes, chunkSize, chunkCap, Config.fillChunk, hl, advanceCurFor, h.2.1.2.2]

/-- The stream of a fill, every answer `ok`: its chunk schedule (R173). -/
theorem steps_fill (c : Half) :
    ∀ (pixels : Nat) (s : State) (rest : List Answer), Undisturbed s → 1 ≤ pixels →
      microOp s = some (.streamChunk .pat) → s.pat.toList = colorBytes c 16 → s.rem.toNat = 2 * pixels →
      s.answers = List.replicate (fillChunks c pixels).length .ok ++ rest →
      steps (fillChunks c pixels).length s =
        .next { s with
          seq := s.seq + 1, rem := 0, answers := rest
          trace := s.trace ++ (fillChunks c pixels).map (fun bs => .xfer .data bs .ok) } := by
  intro pixels
  induction pixels using Nat.strongRecOn with
  | _ pixels ih =>
    intro s rest h h1 hm hpat hrem ha
    have h0 : s.rem ≠ 0 := by
      intro h
      rw [h] at hrem
      simp at hrem
      omega
    rcases Nat.lt_or_ge 16 pixels with hbig | hsmall
    · rw [fillChunks_large c hbig] at ha ⊢
      have hs := step_fill h hm h0 (rest := List.replicate (fillChunks c (pixels - 16)).length .ok ++ rest)
        (by simpa [List.replicate_succ] using ha)
      rw [List.length_cons, steps_next hs, show min s.rem.toNat 32 = 32 by omega, if_neg (by omega), hpat]
      refine Eq.trans (ih (pixels - 16) (by omega) _ rest ?_ (by omega) ?_ ?_ ?_ ?_) ?_
      · exact h
      · exact hm
      · exact hpat
      · have := s.rem.isLt
        simp
        omega
      · rfl
      · simp [show (colorBytes c 16).take 32 = colorBytes c 16 from take_colorBytes c (a := 16) (Nat.le_refl _)]
    · rw [fillChunks_small c h1 hsmall] at ha ⊢
      have hs := step_fill h hm h0 (rest := rest) (by simpa using ha)
      rw [List.length_singleton, steps_next (k := 0) hs]
      simp only [steps_zero]
      rw [hrem, show min (2 * pixels) 32 = 2 * pixels by omega, hpat, take_colorBytes c hsmall]
      simp

end Sys2Proof.Laws
end

