-- ==== Sys2Proof/Laws/Waits.lean ====
section
/-! SUPPORT. What a trace owes (R304), and where the micro-programs keep it. -/

namespace Sys2Proof.Laws

open Sys2Proof.Machine Sys2Proof.Safety

/-! ## The scan and the last command, one element more -/

theorem waitScan_append (a b : List Event) : waitScan (a ++ b) = b.foldl WaitScan.event (waitScan a) := by
  simp [waitScan]

section Events

variable (w : WaitScan) (l : Level) (b : Byte) (bs : List Byte) (r : Answer)

@[simp] theorem lastAfter_command : w.lastAfter (.xfer .cmd [b] r) = some b := rfl
@[simp] theorem lastAfter_data : w.lastAfter (.xfer .data bs r) = w.last := by simp [WaitScan.lastAfter]
@[simp] theorem initAfter_command : w.initAfter (.xfer .cmd [b] r) = (w.inInit && b != cmdCode .dispon) := rfl
@[simp] theorem initAfter_data : w.initAfter (.xfer .data bs r) = w.inInit := by simp [WaitScan.initAfter]
@[simp] theorem owes_err : w.owes (.xfer l bs .err) = none := by cases l <;> simp [WaitScan.owes]

/-- A select-line event owes nothing and changes nothing else, where nothing was owed. -/
theorem waitEvent_dc (h : w.owed = none) : w.event (.dc l) = w := by
  cases w
  simp_all [WaitScan.event, WaitScan.owes, WaitScan.lastAfter, WaitScan.initAfter]

end Events

/-- The last command after one micro-operation more. -/
theorem lastCommand_snoc (l : List MicroOp) (m : MicroOp) :
    lastCommand (l ++ [m]) =
      match m with
      | .writeCommand b => some b
      | _ => lastCommand l := by
  induction l with
  | nil => cases m <;> rfl
  | cons a l ih => cases a <;> cases m <;> simp_all [lastCommand]

/-! ## The micro-programs -/

/-- streamChunk stands at SEQ 12 of a drawing request only, with that request's source (R171, R174, R177). -/
theorem streamChunk_position {o : Op} {s : State} {n : Nat} {src : Src}
    (h : (microProgram o s)[n]? = some (.streamChunk src)) :
    n = 12 ∧
      ((o = .pixelDraw ∧ src = .pix) ∨ (o = .rectDraw ∧ src = .pat) ∨ (o = .bufferDraw ∧ src = .mem)) := by
  have draw : ∀ src', (drawProgram src' s)[n]? = some (.streamChunk src) → n = 12 ∧ src = src' := by
    intro src' h
    have hlt := (List.getElem?_eq_some_iff.1 h).1
    simp only [drawProgram, setWindow, addressParams, List.length_append, List.length_cons, List.length_nil] at hlt
    interval_cases n <;> simp [drawProgram, setWindow, addressParams] at h
    exact ⟨rfl, h.symm⟩
  cases o with
  | pixelDraw => have := draw .pix h; simp [this]
  | rectDraw => have := draw .pat h; simp [this]
  | bufferDraw => have := draw .mem h; simp [this]
  | init => have := List.mem_of_getElem? h; simp [microProgram, initProgram, addressParams] at this
  | uninit => have := List.mem_of_getElem? h; simp [microProgram] at this
  | rotationSet => have := List.mem_of_getElem? h; simp [microProgram] at this
  | displayInvert => have := List.mem_of_getElem? h; simp [microProgram] at this
  | display => have := List.mem_of_getElem? h; simp [microProgram] at this

/-- INIT's acquisition is its SEQ 0, its respond SEQ 26, its DISPON SEQ 24 (R202). -/
theorem init_positions {s : State} {n : Nat} {m : MicroOp} (h : (microProgram .init s)[n]? = some m) :
    (m = .acquire ↔ n = 0) ∧ (m = .respond (some .ready) ↔ n = 26) ∧ (m = .writeCommand (cmdCode .dispon) ↔ n = 24) ∧
      m ≠ .release ∧ n ≤ 26 := by
  have hlt := (List.getElem?_eq_some_iff.1 h).1
  simp [microProgram, initProgram, addressParams] at hlt
  interval_cases n <;> simp [microProgram, initProgram, addressParams] at h <;> subst h <;> simp [cmdCode]

/-- release stands at SEQ 0 of UNINIT only (R148, R212). -/
theorem release_position {o : Op} {s : State} {n : Nat} (h : (microProgram o s)[n]? = some .release) :
    o = .uninit ∧ n = 0 := by
  have hm := List.mem_of_getElem? h
  cases o <;> simp [microProgram, initProgram, drawProgram, setWindow, addressParams] at hm
  refine ⟨rfl, ?_⟩
  match n with
  | 0 => rfl
  | 1 => simp [microProgram] at h
  | n + 2 => simp [microProgram] at h

/-- What a delivered command of a micro-program owes is the next micro-operation, INVON's wait being owed in INIT only. -/
theorem command_owes {o : Op} {s : State} {n : Nat} {b : Byte} {w : WaitScan} {ms : Nat}
    (h : (microProgram o s)[n]? = some (.writeCommand b)) (hI : w.inInit = true → o = .init)
    (hw : w.owes (.xfer .cmd [b] .ok) = some ms) : (microProgram o s)[n + 1]? = some (.wait ms) := by
  have draw : ∀ src, MicroOp.writeCommand b ∈ drawProgram src s → w.owes (.xfer .cmd [b] .ok) = none := by
    intro src hm
    simp [drawProgram, setWindow, addressParams] at hm
    rcases hm with rfl | rfl | rfl <;> rfl
  cases o with
  | init =>
    have hlt := (List.getElem?_eq_some_iff.1 h).1
    simp [microProgram, initProgram, addressParams] at hlt
    interval_cases n <;> simp [microProgram, initProgram, addressParams] at h <;> subst h <;>
      simp [WaitScan.owes, decodeWire, cmdCode] at hw <;> simp [microProgram, initProgram, addressParams] <;> simp_all
  | pixelDraw => rw [draw _ (List.mem_of_getElem? h)] at hw; cases hw
  | rectDraw => rw [draw _ (List.mem_of_getElem? h)] at hw; cases hw
  | bufferDraw => rw [draw _ (List.mem_of_getElem? h)] at hw; cases hw
  | uninit => have hm := List.mem_of_getElem? h; simp [microProgram] at hm
  | display => have hm := List.mem_of_getElem? h; simp [microProgram] at hm
  | rotationSet =>
    have hm := List.mem_of_getElem? h
    simp [microProgram] at hm
    subst hm
    cases hw
  | displayInvert =>
    have hi : w.inInit = false := by
      cases hh : w.inInit with
      | false => rfl
      | true => exact absurd (hI hh) (by simp)
    have hm := List.mem_of_getElem? h
    cases hinv : s.inv <;> simp [microProgram, hinv] at hm <;> subst hm <;>
      simp [WaitScan.owes, decodeWire, cmdCode, hi] at hw

/-- What a delivered data transfer of a micro-program owes is the next micro-operation, the last command sent being the
last one before it: only COLMOD's data byte owes any. -/
theorem data_owes {o : Op} {s : State} {n : Nat} {m : MicroOp} {w : WaitScan} {ms : Nat} {bs : List Byte}
    (h : (microProgram o s)[n]? = some m) (hm : (∃ b, m = .writeData b) ∨ ∃ src, m = .streamChunk src)
    (hl : ∀ b, lastCommand ((microProgram o s).take n) = some b → w.last = some b)
    (hw : w.owes (.xfer .data bs .ok) = some ms) : (microProgram o s)[n + 1]? = some (.wait ms) := by
  have hlt := (List.getElem?_eq_some_iff.1 h).1
  have hw' : w.last = some 0x3A#8 ∧ ms = 10 := by
    simp only [WaitScan.owes] at hw
    split at hw
    · exact ⟨‹_›, by cases hw; rfl⟩
    · cases hw
  obtain ⟨hw1, rfl⟩ := hw'
  rw [hw1] at hl
  have draw : ∀ src, microProgram o s = drawProgram src s → False := by
    intro src e
    rw [e] at h hlt hl
    simp [drawProgram, setWindow, addressParams] at hlt
    interval_cases n <;> simp [drawProgram, setWindow, addressParams] at h <;> subst h <;>
      simp [drawProgram, setWindow, addressParams, lastCommand, cmdCode] at hl hm
  cases o with
  | init =>
    simp [microProgram, initProgram, addressParams] at hlt
    interval_cases n <;> simp [microProgram, initProgram, addressParams] at h <;> subst h <;>
      simp [microProgram, initProgram, addressParams, lastCommand, cmdCode] at hl hm <;>
      simp [microProgram, initProgram, addressParams, Config.tColmod]
  | pixelDraw => exact (draw _ rfl).elim
  | rectDraw => exact (draw _ rfl).elim
  | bufferDraw => exact (draw _ rfl).elim
  | rotationSet =>
    simp [microProgram] at hlt
    interval_cases n <;> simp [microProgram] at h <;> subst h <;> simp [microProgram, lastCommand, cmdCode] at hl hm
  | uninit =>
    have hmem := List.mem_of_getElem? h
    simp [microProgram] at hmem
    rcases hmem with rfl | rfl <;> simp at hm
  | displayInvert =>
    have hmem := List.mem_of_getElem? h
    simp [microProgram] at hmem
    rcases hmem with rfl | rfl <;> simp at hm
  | display =>
    have hmem := List.mem_of_getElem? h
    simp [microProgram] at hmem
    subst hmem
    simp at hm

end Sys2Proof.Laws
end

