-- ==== Sys2Proof/Tests/Slice0.lean ====
section
/-! SUPPORT. The model's own tests: small facts whose expected values come from the spec (its rules and
95_test_vectors.md), and for each statement with hypotheses a state or input that meets them. -/

namespace Sys2Proof.Tests

open Sys2Proof.Machine Sys2Proof.Safety

/-! ## Small states -/

/-- READY, nothing running (the READY start of 95_test_vectors.md, DC aside). -/
def ready : State := { State.reset with lc := .ready }

/-- A request running at a SEQ, in READY. -/
def running (o : Op) (n : Nat) (answers : List Answer) : State :=
  { ready with busy := true, op := opCode o, seq := n, answers := answers }

/-- INIT running at a SEQ, in OFF. -/
def runningInit (n : Nat) (answers : List Answer) : State :=
  { State.reset with busy := true, op := 1, seq := n, answers := answers }

/-- LENGTH_CHECK = UNCHECKED. -/
def uncheckedLength : Config := { Config.reference with lengthCheck := .unchecked }

/-- INIT_ERROR_POLICY = IGNORE. -/
def ignoreErrors : Config := { Config.reference with initErrorPolicy := .ignore }

/-- The next state of an answer. -/
def got : Result → Option State
  | .next t => some t
  | .fault _ => none
  | .refused _ => none

/-- The fault of an answer. -/
def stop : Result → Option Fault
  | .next _ => none
  | .fault f => some f
  | .refused _ => none

/-! ## WellFormed: each check refuses an ill-formed term -/

theorem test_wf_rejects_reserved_low : Descriptor.wf ⟨0x00000014, 0, 0, 0, 0⟩ = false := by decide
theorem test_wf_rejects_reserved_high : Descriptor.wf ⟨0x00000808, 0, 0, 0, 0⟩ = false := by decide
theorem test_wf_rejects_op_zero : Descriptor.wf ⟨0x00000000, 0, 0, 0, 0⟩ = false := by decide
theorem test_wf_rejects_op_nine : Descriptor.wf ⟨0x00000009, 0, 0, 0, 0⟩ = false := by decide
theorem test_wf_rejects_op_fifteen : Descriptor.wf ⟨0x0000000F, 0, 0, 0, 0⟩ = false := by decide
theorem test_wf_accepts_boundaries :
    Descriptor.wf ⟨0xFFFF0701, 0, 0, 0, 0⟩ = true ∧ Descriptor.wf ⟨0x00000008, 0, 0, 0, 0⟩ = true := by decide

/-- The reference configuration as numbers (R6 to R12). -/
def raw : RawConfig :=
  { tabColor := 2, chunkMax := 250, panelW := 240, panelH := 240, initCol0 := 0, initCol1 := 240, initRow0 := 80
    initRow1 := 240, madctlRot := [0xC0, 0xA0, 0x00, 0x60, 0xC8, 0xA8, 0x08, 0x68], initErrorPolicy := 0
    lengthCheck := 0, spiFormat := Config.reference.spiFormat, pins := Config.reference.pins }

theorem test_admit_reference : raw.toConfig = some Config.reference := by decide
theorem test_admit_rejects_chunk_31 : RawConfig.toConfig { raw with chunkMax := 31 } = none := by decide
theorem test_admit_accepts_chunk_32 : (RawConfig.toConfig { raw with chunkMax := 32 }).isSome = true := by decide
theorem test_admit_rejects_variant : RawConfig.toConfig { raw with tabColor := 4 } = none := by decide
theorem test_admit_rejects_col : RawConfig.toConfig { raw with initCol1 := 65536 } = none := by decide
theorem test_admit_rejects_row : RawConfig.toConfig { raw with initRow0 := 65536 } = none := by decide
theorem test_admit_rejects_madctl : RawConfig.toConfig { raw with madctlRot := [0, 0, 0, 0, 0, 0, 0, 256] } = none := by decide
theorem test_admit_rejects_madctl_length : RawConfig.toConfig { raw with madctlRot := [0, 0, 0] } = none := by decide
theorem test_admit_rejects_error_policy : RawConfig.toConfig { raw with initErrorPolicy := 2 } = none := by decide
theorem test_admit_rejects_length_check : RawConfig.toConfig { raw with lengthCheck := 2 } = none := by decide

/-! ## Decoding: words written out from R101, R102, R108 and 95_test_vectors.md -/

theorem test_decode_init : decodeRequest ⟨0x00000001, 0, 0, 0, 0⟩ = .ok .init := by decide
theorem test_decode_uninit : decodeRequest ⟨0x00000002, 0, 0, 0, 0⟩ = .ok .uninit := by decide
theorem test_decode_pixel : decodeRequest ⟨0x12340003, 0x00060005, 0, 0, 0⟩ = .ok (.pixelDraw 5 6 0x1234) := by decide
theorem test_decode_rect :
    decodeRequest ⟨0x001F0004, 0x0014000A, 0x00070003, 0, 0⟩ = .ok (.rectDraw 10 20 3 7 0x001F) := by decide
theorem test_decode_buffer :
    decodeRequest ⟨0x00000005, 0x00020001, 0x0001007E, 0x20001000, 0x000000FC⟩ =
      .ok (.bufferDraw 1 2 126 1 0x20001000 252) := by decide
theorem test_decode_rotate : decodeRequest ⟨0x00000106, 0, 0, 0, 0⟩ = .ok (.rotationSet 1) := by decide
theorem test_decode_invert :
    decodeRequest ⟨0x00000407, 0, 0, 0, 0⟩ = .ok (.displayInvert true) ∧
      decodeRequest ⟨0x00000007, 0, 0, 0, 0⟩ = .ok (.displayInvert false) := by decide
theorem test_decode_display : decodeRequest ⟨0x00000008, 0, 0, 0, 0⟩ = .ok .display := by decide
theorem test_decode_swreset : decodeWire 0x01 = .ok .swreset := by decide
theorem test_decode_slpout : decodeWire 0x11 = .ok .slpout := by decide
theorem test_decode_noron : decodeWire 0x13 = .ok .noron := by decide
theorem test_decode_invoff : decodeWire 0x20 = .ok .invoff := by decide
theorem test_decode_invon : decodeWire 0x21 = .ok .invon := by decide
theorem test_decode_dispon : decodeWire 0x29 = .ok .dispon := by decide
theorem test_decode_caset : decodeWire 0x2A = .ok .caset := by decide
theorem test_decode_raset : decodeWire 0x2B = .ok .raset := by decide
theorem test_decode_ramwr : decodeWire 0x2C = .ok .ramwr := by decide
theorem test_decode_madctl : decodeWire 0x36 = .ok .madctl := by decide
theorem test_decode_colmod : decodeWire 0x3A = .ok .colmod := by decide
theorem test_decode_rejects :
    decodeWire 0x00 = .error (.notACommand 0x00) ∧ decodeRequest ⟨0x00000808, 0, 0, 0, 0⟩ = .error .reservedBits ∧
      decodeRequest ⟨0x00000000, 0, 0, 0, 0⟩ = .error (.reservedOp 0) ∧
      decodeWords [0x00000001, 0, 0, 0] = .error (.wrongLength 4) := by decide

/-- R117's example. -/
theorem test_encode_rect :
    encode (.rectDraw 0 0 240 240 0) = .request ⟨0x00000004, 0x00000000, 0x00F000F0, 0x00000000, 0x00000000⟩ := by decide
theorem test_assemble :
    assemble "rect" [0, 0, 240, 240, 0] = some (.rectDraw 0 0 240 240 0) ∧
      assemble "rotate" [270] = some (.rotationSet 3) ∧ assemble "rotate" [3] = some (.rotationSet 3) ∧
      assemble "invert" [2] = none ∧ assemble "pixel" [65536, 0, 0] = none := by decide
/-- R117's own example line, and a line with an operand too few. -/
theorem test_assemble_line :
    assembleLine "rect 0, 0, 240, 240, 0x0000".toList = some (.rectDraw 0 0 240 240 0) ∧
      assembleLine "rect 0, 0, 240, 240".toList = none := by decide
theorem test_table_words :
    decodeTableWord 16 0x0008 = some .display ∧ decodeTableWord 32 0x00000106 = some (.rotationSet 1) ∧
      decodeTableWord 8 0x2C = some .ramwr ∧ decodeTableWord 8 0x2D = none ∧ decodeTableWord 16 0x0808 = none := by decide
theorem test_fetch_word :
    (got (step (State.reset.withFetchWord 16 0x0001))).map (fun t => (t.busy, t.op)) = some (true, 1) ∧
      (got (step (State.reset.withFetchWord 8 0x2C))).map (fun t => t.trace) = some [.dc .cmd] := by decide

/-! ## One step of each instruction -/

/-- V1, for every wire command: its byte of R108 at CMD, SEQ up by 1. -/
def sends (i : Instr) (b : Byte) : Bool :=
  match got (exec i (runningInit 1 [.ok])) with
  | some t => t.trace == [.dc .cmd, .xfer .cmd [b] .ok] && t.dc == some .cmd && t.seq == 2
  | none => false

theorem test_swreset : sends .swreset 0x01 = true := by decide
theorem test_slpout : sends .slpout 0x11 = true := by decide
theorem test_noron : sends .noron 0x13 = true := by decide
theorem test_invoff : sends .invoff 0x20 = true := by decide
theorem test_invon : sends .invon 0x21 = true := by decide
theorem test_dispon : sends .dispon 0x29 = true := by decide
theorem test_caset : sends .caset 0x2A = true := by decide
theorem test_raset : sends .raset 0x2B = true := by decide
theorem test_ramwr : sends .ramwr 0x2C = true := by decide
theorem test_madctl : sends .madctl 0x36 = true := by decide
theorem test_colmod : sends .colmod 0x3A = true := by decide

/-- V34: SLPOUT answered `err` under ABORT. -/
theorem test_slpout_error :
    (got (exec .slpout (runningInit 3 [.err]))).map (fun t => (t.lc, t.busy, t.resp, t.seq)) =
      some (.initFailed, false, some .errTransfer, 3) := by decide

/-- V57: MADCTL of a ROTATION_SET answered `err`: LC stays READY. -/
theorem test_madctl_error :
    (got (exec .madctl (running .rotationSet 0 [.err]))).map (fun t => (t.lc, t.busy, t.resp)) =
      some (.ready, false, some .errTransfer) := by decide

/-- What a request's acceptance records as FAULT. -/
def faultOf (i : Instr) (s : State) : Option FaultCode := (got (exec i s)).bind (fun t => t.fault)

theorem test_init_twice : faultOf .init ready = some .notReady := by decide  -- V49
theorem test_uninit_off : faultOf .uninit State.reset = some .notReady := by decide  -- V48
theorem test_rect_not_ready : faultOf (.rectDraw 0 0 1 1 0) State.reset = some .notReady := by decide  -- V43
theorem test_rect_zero_width : faultOf (.rectDraw 0 0 0 5 0) ready = some .badWindow := by decide  -- V40
theorem test_rect_corner : faultOf (.rectDraw 0xFFFF 0 2 1 0) ready = some .badWindow := by decide  -- V41
theorem test_rect_overflow : faultOf (.rectDraw 0 0 0xFFFF 0xFFFF 0) ready = some .countOverflow := by decide  -- V42
theorem test_buffer_length : faultOf (.bufferDraw 0 0 2 2 0x20000000 10) ready = some .lengthMismatch := by decide  -- V50
theorem test_buffer_wrap : faultOf (.bufferDraw 0 0 128 2 0xFFFFFF00 512) ready = some .bufferWrap := by decide  -- V51
theorem test_buffer_priority : faultOf (.bufferDraw 0 0 0 1 0 4) ready = some .badWindow := by decide  -- V53
theorem test_display_reentrant : faultOf .display (running .rectDraw 12 []) = some .reentrant := by decide  -- V54

/-- V21's window and byte count. -/
theorem test_rect_latches :
    (got (exec (.rectDraw 10 20 3 7 0x001F) ready)).map (fun t => (t.x0, t.y0, t.x1, t.y1, t.rem)) =
        some (10, 20, 12, 26, 42) ∧
      (got (exec (.rectDraw 10 20 3 7 0x001F) ready)).map (fun t => t.pat.toList.take 4) =
        some [0x00, 0x1F, 0x00, 0x1F] := by decide

/-- V12: the top corner. -/
theorem test_pixel_latches :
    (got (exec (.pixelDraw 0xFFFF 0xFFFF 0) ready)).map (fun t => (t.x0, t.x1, t.y0, t.y1, t.rem)) =
      some (0xFFFF, 0xFFFF, 0xFFFF, 0xFFFF, 2) := by decide

/-- V28: a range that ends exactly at 2^32 is accepted. -/
theorem test_buffer_latches :
    (got (exec (.bufferDraw 0 0 128 2 0xFFFFFE00 512) ready)).map (fun t => (t.cur, t.rem, t.x1, t.y1)) =
      some (0xFFFFFE00, 512, 127, 1) := by decide

theorem test_invert_latches :
    (got (exec (.displayInvert true) ready)).map (fun t => (t.inv, t.op, t.busy)) = some (true, 7, true) := by decide

/-- V37: the data byte of each orientation. -/
theorem test_rotate_bytes :
    (List.map (fun o => madctlRot Config.reference o) [0, 1, 2, 3] = [0xC0, 0xA0, 0x00, 0x60]) ∧
      (List.map (fun o => madctlRot { Config.reference with tabColor := .redtab } o) [0, 1, 2, 3] =
        [0xC8, 0xA8, 0x08, 0x68]) := by decide

/-- V3: of 42 bytes, 32 go out first, then 10. -/
theorem test_fill_chunks :
    (got (step { running .rectDraw 12 [.ok] with rem := 42 })).map (fun t => (t.rem, t.seq)) = some (10, 12) ∧
      (got (step { running .rectDraw 12 [.ok] with rem := 10 })).map (fun t => (t.rem, t.seq)) = some (0, 13) := by decide

/-- V6: a failed acquisition. -/
theorem test_acquire_error :
    (got (step (runningInit 0 [.err]))).map (fun t => (t.trace, t.lc, t.resp, t.busy)) =
      some ([.acquire .err], .off, some .errAcquire, false) := by decide

/-- R72: a byte written by the host is read at its address, and writing 0x00 unlists it (entry 4). -/
theorem test_memory :
    Memory.read (Memory.write (Memory.write [] 5 0xAB) 4 0xCD) 5 = 0xAB ∧
      Memory.write (Memory.write [] 5 0xAB) 5 0x00 = [] := by decide

/-- V31U and V32U: what the observer makes of a wrong length. -/
theorem test_observer_short :
    (observe (windowEvents 0 0 0 0 ++ streamEvents [])).desync = true ∧
      (observe (windowEvents 0 0 1 1 ++ streamEvents [[1, 2, 3, 4, 5, 6, 7, 8]])).desync = false := by decide

/-- R249, R250, R266: one data byte each, and none where the command byte failed; a failed ROTATION_SET leaves MADCTL
unknown. -/
theorem test_panel_parameters :
    (panelView (commandEvents 0x3A ++ dataEvents 0x55 ++ [.wait 10, .dc .cmd, .xfer .cmd [0x36] .err] ++
      dataEvents 0x00)).colmod = some 0x55 ∧
    (panelView (commandEvents 0x36 ++ dataEvents 0x00 ++ [.dc .cmd, .xfer .cmd [0x2A] .err] ++ dataEvents 0xF0)).madctl =
      some 0x00 ∧
    (panelView (commandEvents 0x36 ++ dataEvents 0xC0 ++ commandEvents 0x36 ++ [.dc .data, .xfer .data [0xA0] .err])).madctl =
      none ∧
    (panelView (commandEvents 0x21 ++ [.dc .cmd, .xfer .cmd [0x20] .err])).inverted = none := by decide

/-! ## Witnesses: for each statement with hypotheses, what meets them together -/

theorem noReset_of_empty {s : State} (h : s.host = []) : noReset s := by simp [noReset, h]

/-- READY with a descriptor of the reserved space presented. -/
def illegal (w0 : Word) : State := { ready with port := some ⟨w0, 0, 0x00010001, 0, 0⟩ }

theorem witness_ReservedDescriptorFaults :
    Descriptor.wf ⟨0x00000014, 0, 0x00010001, 0, 0⟩ = false ∧ Descriptor.wf ⟨0x00000804, 0, 0x00010001, 0, 0⟩ = false ∧
      Descriptor.wf ⟨0x00000000, 0, 0x00010001, 0, 0⟩ = false ∧ Descriptor.wf ⟨0x00000009, 0, 0x00010001, 0, 0⟩ = false ∧
      configOk (illegal 0x00000014) = true ∧ (illegal 0x00000014).fault = none ∧ (illegal 0x00000014).busy = false ∧
      (illegal 0x00000014).port = some ⟨0x00000014, 0, 0x00010001, 0, 0⟩ ∧ noReset (illegal 0x00000014) :=
  ⟨by decide, by decide, by decide, by decide, by decide, rfl, rfl, rfl, noReset_of_empty rfl⟩

/-- Two INIT descriptors that differ in every unused field (R103). -/
theorem witness_UnusedFieldsIgnored :
    Descriptor.op ⟨0x00000001, 0, 0, 0, 0⟩ = Descriptor.op ⟨0xFFFF0701, 1, 2, 3, 4⟩ ∧
      Descriptor.rsv0 ⟨0x00000001, 0, 0, 0, 0⟩ = Descriptor.rsv0 ⟨0xFFFF0701, 1, 2, 3, 4⟩ ∧
      Descriptor.rsv1 ⟨0x00000001, 0, 0, 0, 0⟩ = Descriptor.rsv1 ⟨0xFFFF0701, 1, 2, 3, 4⟩ ∧
      Descriptor.op ⟨0xFFFF0701, 1, 2, 3, 4⟩ = 1 := by decide

theorem witness_MicroProgramsSendOnlyCommands :
    MicroOp.writeCommand 0x01 ∈ microProgram .init State.reset ∧ MicroOp.writeCommand 0x2C ∈ microProgram .rectDraw ready := by
  decide

/-- A stopped block that is reset. -/
def stoppedReset : State := { ready with fault := some .badWindow, host := [.reset] }

theorem witness_ResetLeavesSpecValues : configOk stoppedReset = true ∧ stoppedReset.host = .reset :: [] := ⟨by decide, rfl⟩

theorem witness_FaultEntryAndStop :
    ready.fault = none ∧ stoppedReset.fault = some .badWindow ∧ configOk stoppedReset = true ∧
      ({ stoppedReset with host := [] } : State).host = [] ∧
      noReset { stoppedReset with host := [.wake] } ∧
      (got (step { stoppedReset with host := [.wake] })).map (fun t => (t.delayReturns, t.fault)) =
        some (1, some .badWindow) ∧
      ({ stoppedReset with host := [.pass, .reset, .wake] } : State).host = [.pass] ++ .reset :: [.wake] ∧
      (∀ m ∈ [HostMove.pass], m ≠ .reset) :=
  ⟨rfl, rfl, by decide, rfl, by simp [noReset], by decide, rfl, by decide⟩

/-- R264: a fault recorded in a run, and a reset that comes later in it. -/
theorem test_reset_after_stop :
    (got (steps 3 { ready with host := [.intrude ⟨0, 0, 0, 0, 0⟩, .pass, .reset] })).map (fun t => t.fault) =
        some (some .illegalRequest) ∧
      (got (steps 4 { ready with host := [.intrude ⟨0, 0, 0, 0, 0⟩, .pass, .reset] })).map (fun t => (t.fault, t.lc)) =
        some (none, .off) := by decide

/-- R313: a run of one DISPLAY ends with its response; one in which a reset comes first does not. -/
theorem test_end_of_run :
    ((got (steps 3 { State.reset with host := [.call ⟨8, 0, 0, 0, 0⟩] })).bind (observation [⟨8, 0, 0, 0, 0⟩])) =
        some ⟨[.success], [], .off⟩ ∧
      (got (steps 3 { State.reset with host := [.call ⟨8, 0, 0, 0, 0⟩, .reset] })).map (ended [⟨8, 0, 0, 0, 0⟩]) =
        some false := by decide

theorem witness_RefusedConfigurationHasNoRun : ({ Config.reference with chunkMax := 31 } : Config).chunkMax < 32 := by decide

/-- READY with the descriptor of E2 presented. -/
def presented : State := { ready with port := some ⟨0xF8000004, 0x00040003, 0x00010001, 0, 0⟩ }

theorem witness_StepRunsPresentedRequest :
    configOk presented = true ∧ presented.fault = none ∧ noReset presented ∧
      decodeRequest ⟨0xF8000004, 0x00040003, 0x00010001, 0, 0⟩ = .ok (.rectDraw 3 4 1 1 0xF800) :=
  ⟨by decide, rfl, noReset_of_empty rfl, by decide⟩

theorem witness_StepRunsMicroOperation :
    configOk (running .rectDraw 0 []) = true ∧ engineReady (running .rectDraw 0 []) ∧
      (running .rectDraw 0 []).port = none ∧ microOp (running .rectDraw 0 []) = some (.writeCommand 0x2A) ∧
      decodeWire 0x2A = .ok .caset ∧ microOp { running .rectDraw 11 [] with host := [.pass] } = some .streamBegin ∧
      microOp { running .rectDraw 11 [] with host := [.call ⟨8, 0, 0, 0, 0⟩] } = some .streamBegin :=
  ⟨by decide, ⟨rfl, rfl, rfl⟩, rfl, by decide, by decide, by decide, by decide⟩

theorem witness_InitUninitDisplayAccepted :
    State.reset.fault = none ∧ State.reset.busy = false ∧ State.reset.lc = .off ∧ ready.fault = none ∧ ready.lc = .ready ∧
      ({ ready with lc := .initFailed } : State).lc = .initFailed := ⟨rfl, rfl, rfl, rfl, rfl, rfl⟩

theorem witness_RotationAndInvertAccepted : ready.fault = none ∧ ready.busy = false ∧ ready.lc = .ready := ⟨rfl, rfl, rfl⟩

theorem witness_PixelDrawAccepted : ready.fault = none ∧ ready.busy = false ∧ ready.lc = .ready := ⟨rfl, rfl, rfl⟩

/-- The last column and row, a 1 by 1 window; and the largest fill of one row. -/
theorem witness_RectDrawAccepted :
    1 ≤ (1 : Half).toNat ∧ (0xFFFF : Half).toNat + (1 : Half).toNat ≤ 65536 ∧
      2 * (1 : Half).toNat * (1 : Half).toNat < 4294967296 ∧ (0 : Half).toNat + (0xFFFF : Half).toNat ≤ 65536 ∧
      2 * (0xFFFF : Half).toNat * (0x8000 : Half).toNat < 4294967296 := by decide

/-- V28's buffer ends exactly at 2^32; under UNCHECKED any length passes. -/
theorem witness_BufferDrawAccepted :
    (0xFFFFFE00 : Word).toNat + (512 : Word).toNat ≤ 4294967296 ∧
      (ready.cfg.lengthCheck = .fault → (512 : Word).toNat = 2 * (128 : Half).toNat * (2 : Half).toNat) ∧
      1 ≤ (128 : Half).toNat ∧ (0 : Half).toNat + (128 : Half).toNat ≤ 65536 ∧
      (uncheckedLength.lengthCheck = .fault → (10 : Word).toNat = 2 * (2 : Half).toNat * (2 : Half).toNat) := by decide

theorem witness_BusyAndLifecycleFaults :
    Instr.isWire .display = false ∧ (running .rectDraw 12 []).fault = none ∧ (running .rectDraw 12 []).busy = true ∧
      ready.busy = false ∧ ready.lc ≠ .off ∧ State.reset.lc = .off ∧ State.reset.lc ≠ .ready ∧
      (Instr.rotationSet 0 ≠ .init ∧ Instr.rotationSet 0 ≠ .uninit ∧ Instr.rotationSet 0 ≠ .display) := by decide

/-- Each clause at a boundary: W = 0; a corner one past 0xFFFF; 2*W*H past 2^32; LEN one short; an end one past 2^32. -/
theorem witness_OperandFaultsInOrder :
    (0 : Half).toNat = 0 ∧ 65536 < (0xFFFF : Half).toNat + (2 : Half).toNat ∧
      4294967296 ≤ 2 * (0x8001 : Half).toNat * (0xFFFF : Half).toNat ∧
      (ready.cfg.lengthCheck = .fault ∧ (7 : Word).toNat ≠ 2 * (2 : Half).toNat * (2 : Half).toNat) ∧
      ¬(ready.cfg.lengthCheck = .fault ∧ (2 : Word).toNat ≠ 2 * (1 : Half).toNat * (1 : Half).toNat) ∧
      4294967296 < (0xFFFFFFFF : Word).toNat + (2 : Word).toNat := by decide

theorem witness_RequestFrame :
    (got (exec .display ready)).isSome = true ∧ (got (exec (.rectDraw 0 0 1 1 7) ready)).isSome = true ∧
      (faultOf (.rectDraw 0 0 0 1 7) ready) ≠ ready.fault := by decide

theorem witness_WireCommandSendsItsByte :
    Instr.isWire .slpout = true ∧ encode .slpout = .wire 0x11 ∧ engineReady (runningInit 3 [.ok]) ∧
      (runningInit 3 [.ok]).answers = .ok :: [] ∧ engineReady (runningInit 3 [.err]) ∧
      (runningInit 3 [.err]).answers = .err :: [] ∧ engineReady (runningInit 3 []) ∧ (runningInit 3 []).answers = [] :=
  ⟨rfl, rfl, ⟨rfl, rfl, rfl⟩, rfl, ⟨rfl, rfl, rfl⟩, rfl, ⟨rfl, rfl, rfl⟩, rfl⟩

theorem witness_TransferFailedAbortsOrGoesOn :
    (runningInit 3 []).op = 1 ∧ (runningInit 3 []).cfg.initErrorPolicy = .abort ∧
      ({ runningInit 3 [] with cfg := ignoreErrors } : State).cfg.initErrorPolicy = .ignore ∧
      (running .rectDraw 3 []).op ≠ 1 := by decide

theorem witness_WireCommandFrame :
    (got (exec .slpout (runningInit 3 [.ok]))).isSome = true ∧ (got (exec .slpout (runningInit 3 []))).isSome = true ∧
      (∀ rest, (runningInit 3 [.ok]).answers ≠ .err :: rest) := ⟨by decide, by decide, by simp [runningInit]⟩

theorem witness_WireCommandNeedsReadyEngine :
    stop (exec .slpout stoppedReset) = some (.stopped .badWindow) ∧ stop (exec .slpout ready) = some .engineIdle ∧
      stop (exec .slpout { runningInit 3 [] with pending := some .acquire }) = some .engineHeld := by decide

theorem witness_WriteDataSendsItsByte :
    (runningInit 6 [.ok]).answers = .ok :: [] ∧ (runningInit 6 [.err]).answers = .err :: [] ∧
      (runningInit 6 [.ok]).pending = none := ⟨rfl, rfl, rfl⟩

/-- A running RECT_DRAW with 42 bytes left (V3), and a running PIXEL_DRAW. -/
def filling : State := { running .rectDraw 12 [.ok] with rem := 42, dc := some .data, pat := fillPattern 0x001F, color := 0x001F }

theorem witness_FillAndPixelChunks :
    filling.pending = none ∧ filling.rem ≠ 0 ∧ filling.answers = .ok :: [] ∧
      [hi 0x1234, lo 0x1234].take (min (2 : Word).toNat 2) = [0x12, 0x34] ∧
      ({ filling with answers := [.err] } : State).answers = .err :: [] ∧
      ({ filling with answers := [] } : State).answers = [] := by decide

/-- A buffer whose next chunk ends at 2^32, and one whose chunk ends below. -/
def blitting (cur rem : Word) (answers : List Answer) : State :=
  { running .bufferDraw 12 answers with cur := cur, rem := rem, dc := some .data }

theorem witness_BufferChunk :
    (blitting 0xFFFFFFF4 12 [.ok]).rem ≠ 0 ∧ (blitting 0xFFFFFFF4 12 []).answers = [] ∧ (0xFFFFFFF4 : Word).toNat + min (12 : Word).toNat 250 ≤ 4294967296 ∧
      (0x20000000 : Word).toNat + min (500 : Word).toNat 250 < 4294967296 ∧
      hostBytes [(0x20000001, 0xAB)] 0x20000000 2 = [0x00, 0xAB] := by decide

theorem witness_EmptyStreamSendsNothing : (blitting 0x20000000 0 []).rem = 0 := by decide

theorem witness_WaitRecordsAndHolds :
    (runningInit 2 []).pending = none ∧ (runningInit 2 []).delayReturns = 0 ∧
      ({ runningInit 2 [] with delayReturns := 1 } : State).delayReturns = 0 + 1 := ⟨rfl, rfl, rfl⟩

theorem witness_AcquireAnswersOrEndsInit :
    (microProgram .init State.reset)[0]? = some .acquire ∧ (runningInit 0 [.ok]).pending = none ∧
      (runningInit 0 [.ok]).answers = .ok :: [] ∧ (runningInit 0 [.err]).answers = .err :: [] := by decide

/-- INIT held in the transfer of SLPOUT. -/
def held (answers : List Answer) : State := { runningInit 3 answers with dc := some .cmd, pending := some (.unit .cmd 0x11) }

/-- A buffer's last chunk held in its transfer. -/
def chunkHeld (answers : List Answer) : State :=
  { blitting 0x20000000 2 answers with pending := some (.chunk .mem [0xAB, 0xCD]) }

theorem witness_HeldUntilAnswered :
    configOk (held []) = true ∧ (held []).fault = none ∧ (held []).port = none ∧ (held []).host = [] ∧
      (held []).pending = some (.unit .cmd 0x11) ∧ (∀ ms, Pending.unit .cmd 0x11 ≠ .wait ms) ∧ (held []).answers = [] ∧
      (held [.ok]).answers = .ok :: [] ∧ (held [.err]).answers = .err :: [] ∧
      (chunkHeld [.ok]).pending = some (.chunk .mem [0xAB, 0xCD]) ∧
      [(0xAB : Byte), 0xCD].length ≤ (chunkHeld [.ok]).rem.toNat ∧
      (chunkHeld [.ok]).cur.toNat + [(0xAB : Byte), 0xCD].length < 4294967296 ∧
      ({ runningInit 0 [.err] with pending := some .acquire } : State).pending = some .acquire ∧
      ({ runningInit 2 [] with pending := some (.wait 150) } : State).delayReturns = 0 ∧
      ({ runningInit 2 [] with pending := some (.wait 150), delayReturns := 1 } : State).delayReturns = 0 + 1 ∧
      ({ held [] with host := [.answer .err] } : State).host = .answer .err :: [] ∧
      ({ held [] with host := [.wake] } : State).host = .wake :: [] :=
  ⟨by decide, rfl, rfl, rfl, rfl, by simp, rfl, rfl, rfl, rfl, by decide, by decide, rfl, rfl, rfl, rfl, rfl⟩

/-- R314: a held call takes an answer that comes later, here `err`, and the request aborts (R151, R205). -/
theorem test_answer_after_hold :
    (got (steps 2 { held [] with host := [.answer .err] })).map (fun t => (t.resp, t.lc)) =
      some (some .errTransfer, .initFailed) := by decide

/-- The outside world writes a byte while a buffer goes out. -/
def poked : State := { blitting 0x20000000 500 [] with host := [.poke 0x20000000 0xAB] }

theorem witness_StepKeepsMemoryCanonical :
    Memory.wf poked.mem = true ∧ (got (step poked)).map (fun t => t.mem) = some [(0x20000000, 0xAB)] := by decide

theorem witness_HostWriteReadsBack :
    configOk poked = true ∧ poked.fault = none ∧ poked.port = none ∧ poked.host = .poke 0x20000000 0xAB :: [] ∧
      Memory.wf poked.mem = true := ⟨by decide, rfl, rfl, rfl, by decide⟩

/-- The invariants hold of a running fill, which steps on. -/
def fillingTrace : State := { filling with trace := windowEvents 0 0 2 6 ++ [.dc .data], x1 := 2, y1 := 6 }

theorem requestInv_filling : RequestInv fillingTrace := by
  refine ⟨by decide, ?_⟩
  rw [requestFits, if_pos (show fillingTrace.busy = true from rfl)]
  exact ⟨.rectDraw, rfl, by decide, rfl, trivial, by decide, by decide, fun _ => rfl, rfl⟩

theorem witness_StepKeepsRequestInvariant :
    RequestInv fillingTrace ∧ (got (step fillingTrace)).map (fun t => t.rem) = some 10 := ⟨requestInv_filling, by decide⟩

theorem witness_RequestInvariantNeverSticks : RequestInv fillingTrace ∧ fillingTrace.fault = none := ⟨requestInv_filling, rfl⟩

theorem witness_StepKeepsTransfersLegal :
    TransferInv fillingTrace ∧ (got (step fillingTrace)).map (fun t => transferCount t.trace) = some 12 :=
  ⟨⟨requestInv_filling, by decide⟩, by decide⟩

theorem witness_StepKeepsSelectLine :
    LineInv fillingTrace ∧ (got (step fillingTrace)).map (fun t => transferCount t.trace) = some 12 :=
  ⟨⟨requestInv_filling, by decide, by decide⟩, by decide⟩

/-- INIT with SWRESET delivered: the wait is owed, and the step keeps it. -/
def owing : State := { runningInit 2 [] with dc := some .cmd, trace := [.acquire .ok, .dc .cmd, .xfer .cmd [0x01] .ok] }

theorem witness_StepKeepsInitWaits :
    WaitInv owing ∧ (waitScan owing.trace).owed = some 150 ∧
      (got (step owing)).map (fun t => t.trace.getLast?) = some (some (.wait 150)) := by
  have scan : waitScan owing.trace = { last := some 0x01, inInit := true, owed := some 150, kept := true } := by decide
  refine ⟨⟨⟨by decide, ?_⟩, by decide, ?_, ?_, fun _ => by decide, fun _ => .inl ⟨rfl, rfl, by decide, by decide⟩⟩,
    by decide, by decide⟩
  · rw [requestFits, if_pos (show owing.busy = true from rfl)]
    exact ⟨.init, rfl, by decide, rfl, trivial, trivial⟩
  · intro ms h
    rw [scan] at h
    cases h
    exact ⟨rfl, rfl, by decide⟩
  · intro o b _ ho h
    cases o <;> first | exact absurd ho (by decide) | skip
    rw [scan, ← h]
    decide

/-- INVON owes a wait in INIT and none in DISPLAY_INVERT; COLMOD's wait is owed after its data byte (R304). -/
theorem test_waits_owed :
    (waitScan ([.acquire .ok] ++ commandEvents 0x21)).owed = some 10 ∧ (waitScan (commandEvents 0x21)).owed = none ∧
      (waitScan (commandEvents 0x3A)).owed = none ∧ (waitScan (commandEvents 0x3A ++ dataEvents 0x55)).owed = some 10 ∧
      (waitScan (initEvents Config.reference)).kept = true ∧
      (waitScan (commandEvents 0x01 ++ commandEvents 0x11)).kept = false := by decide

theorem witness_StepKeepsTransportHeld :
    HeldInv owing ∧ acq owing = true ∧ (got (step owing)).isSome = true := by
  refine ⟨⟨⟨by decide, ?_⟩, by decide⟩, by decide, by decide⟩
  rw [requestFits, if_pos (show owing.busy = true from rfl)]
  exact ⟨.init, rfl, by decide, rfl, trivial, trivial⟩

theorem witness_StepKeepsWindowBeforePixels :
    DrawInv fillingTrace ∧ (got (step fillingTrace)).map (fun t => t.rem) = some 10 := by
  refine ⟨⟨requestInv_filling, fun _ o ho he => ?_⟩, by decide⟩
  rcases ho with rfl | rfl | rfl
  · exact absurd he (by decide)
  · rw [drawSent, if_neg (by decide)]
    exact ⟨[], [.dc .data], by decide, by decide, by decide⟩
  · exact absurd he (by decide)

theorem witness_TraceGrowsConfigurationStays :
    (got (step fillingTrace)).isSome = true ∧ noReset fillingTrace := ⟨by decide, noReset_of_empty rfl⟩

/-- LC changes at the end of INIT; PAT when a RECT_DRAW is accepted; host memory by a write from outside; and a reset. -/
theorem witness_WritersOfSharedState :
    (got (step (runningInit 26 []))).map (fun t => t.lc) = some .ready ∧ noReset (runningInit 26 []) ∧
      RequestInv (runningInit 26 []) ∧
      (got (step presented)).map (fun t => (t.pat.toList.head?, t.requests.length)) = some (some 0xF8, 1) ∧
      noReset presented ∧ (got (step poked)).map (fun t => t.mem == poked.mem) = some false ∧ noReset poked ∧
      (got (step stoppedReset)).isSome = true ∧ stoppedReset.host = .reset :: [] := by
  refine ⟨by decide, noReset_of_empty rfl, ⟨by decide, ?_⟩, by decide, noReset_of_empty rfl, by decide,
    by simp [noReset, poked], by decide, rfl⟩
  rw [requestFits, if_pos (show (runningInit 26 []).busy = true from rfl)]
  exact ⟨.init, rfl, by decide, rfl, trivial, trivial⟩

theorem witness_DcChangesOnlyAtFourMicroOperations :
    (got (step (running .rectDraw 11 []))).map (fun t => t.dc) = some (some .data) ∧
      (running .rectDraw 11 []).dc = none ∧ noReset (running .rectDraw 11 []) :=
  ⟨by decide, rfl, noReset_of_empty rfl⟩

theorem witness_SeqAdvancesByOne :
    (got (step fillingTrace)).map (fun t => t.seq) = some 12 ∧
      (got (step (running .rectDraw 11 []))).map (fun t => t.seq) = some 12 ∧ fillingTrace.busy = true ∧
      noReset fillingTrace := ⟨by decide, by decide, rfl, noReset_of_empty rfl⟩

/-- LC = OFF or READY with the answers of a whole run. -/
def start (lc : Lc) (n : Nat) : State := { State.reset with lc := lc, answers := List.replicate n .ok, delayReturns := 6 }

theorem idle_start (lc : Lc) (n : Nat) : idle (start lc n) := ⟨by simp [configOk, Config.wf, start, State.reset, Config.reference], rfl, rfl, rfl, rfl, rfl⟩

theorem witness_InitRunsToReady :
    idle (start .off 20) ∧ (start .off 20).lc = .off ∧ (start .off 20).answers = List.replicate 20 .ok ++ [] ∧
      (start .off 20).delayReturns = 0 + 6 ∧ (start .off 20).cfg.initCol0 = 0 ∧ (start .off 20).cfg.initCol1 = 240 ∧
      (start .off 20).cfg.initRow0 = 80 ∧ (start .off 20).cfg.initRow1 = 240 :=
  ⟨idle_start _ _, rfl, rfl, rfl, rfl, rfl, rfl, rfl⟩

/-- INIT's answers where SLPOUT fails (V34, V35). -/
def failing : List Answer := .ok :: .err :: List.replicate 17 .ok

theorem witness_InitUnderIgnoreCompletes :
    idle { start .off 0 with cfg := ignoreErrors, answers := .ok :: failing } ∧
      ignoreErrors.initErrorPolicy = .ignore ∧ failing.length = 19 ∧ (start .off 0).delayReturns = 0 + 6 :=
  ⟨⟨by decide, rfl, rfl, rfl, rfl, rfl⟩, rfl, by decide, rfl⟩

theorem witness_InitUnderAbortStopsAtFirstError :
    idle { start .off 0 with answers := .ok :: failing } ∧ (start .off 0).cfg.initErrorPolicy = .abort ∧
      failing.length = 19 ∧ .err ∈ failing ∧ 6 ≤ (start .off 0).delayReturns ∧
      untilError (initEvents Config.reference) failing =
        [.acquire .ok, .dc .cmd, .xfer .cmd [0x01] .ok, .wait 150, .dc .cmd, .xfer .cmd [0x11] .err] :=
  ⟨⟨by decide, rfl, rfl, rfl, rfl, rfl⟩, rfl, by decide, by decide, by decide, by decide⟩

theorem witness_WindowSetRuns :
    ∀ o ∈ [Op.pixelDraw, .rectDraw, .bufferDraw],
      configOk (running o 0 (List.replicate 11 .ok)) = true ∧ engineReady (running o 0 (List.replicate 11 .ok)) ∧
        ((opCode o = 3) ∨ (opCode o = 4) ∨ (opCode o = 5)) := by
  intro o ho
  refine ⟨?_, ⟨rfl, rfl, rfl⟩, ?_⟩ <;> revert o <;> decide

/-- V21's fill and V23's, of 42 and 32 bytes. -/
theorem witness_RectDrawRuns :
    idle (start .ready 13) ∧ (start .ready 13).lc = .ready ∧ (12 : Half).toNat + 1 = (10 : Half).toNat + (3 : Half).toNat ∧
      (26 : Half).toNat + 1 = (20 : Half).toNat + (7 : Half).toNat ∧ 2 * (3 : Half).toNat * (7 : Half).toNat < 4294967296 ∧
      11 + (fillChunks 0x001F ((3 : Half).toNat * (7 : Half).toNat)).length = 13 ∧
      11 + (fillChunks 0xABCD ((16 : Half).toNat * (1 : Half).toNat)).length = 12 :=
  ⟨idle_start _ _, rfl, by decide, by decide, by decide, by decide, by decide⟩

/-- V25's buffer of 252 bytes; V28's, which ends at 2^32; V31U's, of no byte. -/
theorem witness_BufferDrawRuns :
    idle (start .ready 13) ∧ (start .ready 13).lc = .ready ∧ (125 : Half).toNat + 1 = (0 : Half).toNat + (126 : Half).toNat ∧
      (252 : Word).toNat = 2 * (126 : Half).toNat * (1 : Half).toNat ∧
      (bufferChunks [] (0x20001000 : Word).toNat (252 : Word).toNat 250).length = 2 ∧
      (0xFFFFFE00 : Word).toNat + (512 : Word).toNat = 4294967296 ∧
      (bufferChunks [] (0xFFFFFE00 : Word).toNat (512 : Word).toNat 250).length = 3 ∧
      (bufferChunks [] (0x20000000 : Word).toNat (0 : Word).toNat 250).length = 0 :=
  ⟨idle_start _ _, rfl, by decide, by decide, by decide, by decide, by decide, by decide⟩

theorem witness_ChunkScheduleLaws : 1 ≤ 1 ∧ (bufferChunks [] 0 3 1).length = 3 ∧ (fillChunks 0 17).length = 2 := by decide

theorem witness_PixelDrawRuns :
    idle (start .ready 12) ∧ (start .ready 12).lc = .ready ∧ (start .ready 12).answers = List.replicate 12 .ok ++ [] :=
  ⟨idle_start _ _, rfl, rfl⟩

theorem witness_RotationSetRuns :
    idle (start .ready 2) ∧ (start .ready 2).lc = .ready ∧ (start .ready 2).cfg.madctlRot = MadctlRot.default ∧
      (start .ready 2).answers = .ok :: .ok :: [] ∧ (start .ready 2).cfg.tabColor = .blacktab :=
  ⟨idle_start _ _, rfl, rfl, rfl, rfl⟩

theorem witness_InvertUninitDisplayRun :
    idle (start .ready 1) ∧ (start .ready 1).lc = .ready ∧ (start .ready 1).answers = .ok :: [] ∧
      idle (start .initFailed 0) ∧ (start .initFailed 0).lc = .initFailed ∧ idle (start .off 0) :=
  ⟨idle_start _ _, rfl, rfl, idle_start _ _, rfl, idle_start _ _⟩

theorem witness_CompleteDrawLeavesPanelInStep :
    (3 : Half) ≤ 4 ∧ (5 : Half) ≤ 5 ∧
      (List.flatten [[(1 : Byte), 2], [3, 4]]).length =
        ((4 : Half).toNat - (3 : Half).toNat + 1) * ((5 : Half).toNat - (5 : Half).toNat + 1) * 2 := by decide

theorem witness_BrokenDrawDesynchronises :
    (List.flatten [[(1 : Byte), 2]]).length ≠
        ((4 : Half).toNat - (3 : Half).toNat + 1) * ((5 : Half).toNat - (5 : Half).toNat + 1) * 2 ∧
      (List.length [(0 : Byte), 1, 2]) < 4 := by decide

end Sys2Proof.Tests
end

section
/-! PROOFS. ROTATION_SET (R213): the MADCTL byte of an orientation and variant (R10, R113), a run of units that ends the
micro-program, and the request's run from acceptance to its response. -/

namespace Sys2Proof.Proofs

open Sys2Proof.Machine Sys2Proof.Safety Sys2Proof.Laws

/-! ## The MADCTL byte -/

/-- The configured MADCTL byte, by variant and orientation (R10, R113). -/
theorem madctlRot_eq_ite (cfg : Config) (o : BitVec 2) :
    madctlRot cfg o =
      (if cfg.tabColor = .blacktab then
        (if o = 0 then cfg.madctlRot.rgb0 else if o = 1 then cfg.madctlRot.rgb90
          else if o = 2 then cfg.madctlRot.rgb180 else cfg.madctlRot.rgb270)
      else
        (if o = 0 then cfg.madctlRot.bgr0 else if o = 1 then cfg.madctlRot.bgr90
          else if o = 2 then cfg.madctlRot.bgr180 else cfg.madctlRot.bgr270)) := by
  have orientations : o = 0 ∨ o = 1 ∨ o = 2 ∨ o = 3 := by revert o; decide
  by_cases hv : cfg.tabColor = .blacktab
  · rcases orientations with rfl | rfl | rfl | rfl <;> simp [madctlRot, hv]
  · rcases orientations with rfl | rfl | rfl | rfl <;> simp [madctlRot, hv]

/-! ## Acceptance in an idle block -/

/-- A request begun in an idle block runs undisturbed, whatever operands it latches. -/
theorem undisturbed_latch_beginRequest {s : State} {f : State → State} (hs : idle s) (hl : OperandsOnly f) (o : Op) :
    Undisturbed (f (beginRequest o s)) := by
  obtain ⟨hc, hf, -, hp, hport, hhost⟩ := hs
  rw [hl]
  exact ⟨hc, ⟨hf, rfl, hp⟩, hport, hhost⟩

/-! ## A run of units and the response -/

/-- Consecutive units of the micro-program, every answer `ok`, and the response that stands after them. -/
theorem steps_units_finish {o : Op} {us : List (Level × Byte)} {lc : Option Lc} {s : State} {rest : List Answer}
    (h : Undisturbed s) (ho : s.op = opCode o)
    (hu : ∀ k u, us[k]? = some u → ∃ m, (microProgram o s)[s.seq + k]? = some m ∧ unitOf m = some u)
    (hr : (microProgram o s)[s.seq + us.length]? = some (.respond lc))
    (ha : s.answers = List.replicate us.length .ok ++ rest) :
    steps (us.length + 1) s =
      .next (finish lc { s with
        seq := s.seq + us.length, dc := levelAfter s.dc us, answers := rest
        trace := s.trace ++ unitEvents us }) := by
  rw [steps_add (steps_units o us s rest h ho hu ha)]
  refine (steps_next (k := 0) (step_respond ?_ ?_)).trans (steps_zero _)
  · exact h
  · refine Eq.trans (microOp_eq ?_) ((congrArg (·[_]?) (microProgram_congr o rfl rfl rfl rfl rfl rfl rfl)).trans hr)
    exact ho

/-! ## ROTATION_SET -/

/-- The two units of ROTATION_SET (R213). -/
def rotationUnits (b : Byte) : List (Level × Byte) := [(.cmd, 0x36), (.data, b)]

/-- ROTATION_SET's micro-program begins with them. -/
theorem rotationProgram_units (s : State) (k : Nat) (u : Level × Byte)
    (hk : (rotationUnits (madctlRot s.cfg s.orient))[k]? = some u) :
    ∃ m, (microProgram .rotationSet s)[k]? = some m ∧ unitOf m = some u := by
  match k with
  | 0 => cases hk; exact ⟨.writeCommand (cmdCode .madctl), rfl, rfl⟩
  | 1 => cases hk; exact ⟨.writeData (madctlRot s.cfg s.orient), rfl, rfl⟩
  | k + 2 => cases hk

/-- The whole run of a begun ROTATION_SET, both transfers answered `ok`. -/
theorem steps_rotationSet {s : State} {rest : List Answer} (h : Undisturbed s) (ho : s.op = opCode .rotationSet)
    (hq : s.seq = 0) (ha : s.answers = .ok :: .ok :: rest) :
    steps 3 s =
      .next (respond .success { s with
        seq := 2, dc := some .data, answers := rest
        trace := s.trace ++ (commandEvents 0x36 ++ dataEvents (madctlRot s.cfg s.orient)) }) := by
  have run := steps_units_finish (o := .rotationSet) (us := rotationUnits (madctlRot s.cfg s.orient)) (lc := none)
    (rest := rest) h ho (by simpa only [hq, Nat.zero_add] using rotationProgram_units s) (by rw [hq]; rfl) ha
  rw [hq] at run
  exact run

/-- Settles O57: acceptance begins the request, its two units and the response run, and the byte sent is the table's. -/
theorem rotationSetRuns : Obligations.RotationSetRuns := by
  unfold Obligations.RotationSetRuns
  intro o s rest byte hidle hlc ha hbyte
  have ⟨_, hf, hb, _⟩ := hidle
  refine ⟨?_, fun hdefault => by simpa only [hdefault, MadctlRot.default] using hbyte⟩
  have begun : exec (.rotationSet o) s = .next (latchOrient o (beginRequest .rotationSet s)) := by
    rw [exec_rotationSet, accept_begins hf hb (by rw [hlc]; rfl)]
  have sent : madctlRot s.cfg o = byte := (madctlRot_eq_ite s.cfg o).trans hbyte.symm
  have undisturbed : Undisturbed (latchOrient o (beginRequest .rotationSet s)) :=
    undisturbed_latch_beginRequest hidle (fun _ => rfl) .rotationSet
  refine ⟨_, _, begun, steps_rotationSet undisturbed rfl rfl ha, ?_, rfl, rfl, hlc, hf, rfl, rfl⟩
  simp [latchOrient, sent]

end Sys2Proof.Proofs
end

section
/-! PROOFS. The moves a step is made of. Every step is a sequence of them, so a predicate that every move keeps is kept
by every step: the invariants' proofs are one case analysis over the moves each. -/

namespace Sys2Proof.Proofs

open Sys2Proof.Machine Sys2Proof.Safety Sys2Proof.Laws

/-- The micro-operation that sends one unit at a level (R141, R142). -/
def unitOp : Level → Byte → MicroOp
  | .cmd, b => .writeCommand b
  | .data, b => .writeData b

/-- One move: a reset; a change of FAULT or of what is outside the block's registers (a fault recorded, a descriptor
taken off the port, an outside move); a request's acceptance; then the ENGINE makes a call (`unitCalled` to
`acquireCalled`), completes a micro-operation without one (`streamBegun` to `responded`), or takes the answer of its call
(`acquireAnswered` to `waitReturned`). -/
inductive Move (s : State) : State → Prop
  | reset : Move s (resetBlock s)
  | outside (f : Option FaultCode) (p : Option Descriptor) (as : List Answer) (n : Nat) (hs : List HostMove)
      (qs : List Descriptor) (m : Memory) :
      Move s { s with fault := f, port := p, answers := as, delayReturns := n, host := hs, requests := qs, mem := m }
  | accepted (o : Op) (f : State → State) (hb : s.busy = false) (hl : lifecycleOk o s.lc = true) (hf : OperandsOnly f)
      (hd : drawFits o (f (beginRequest o s))) : Move s (f (beginRequest o s))
  | unitCalled (l : Level) (b : Byte) (hb : s.busy = true) (hm : microOp s = some (unitOp l b)) :
      Move s { driveDc l s with pending := some (.unit l b) }
  | chunkCalled (src : Src) (hb : s.busy = true) (hm : microOp s = some (.streamChunk src)) (h0 : s.rem ≠ 0)
      (ht : chunkPastTop src s = false) :
      Move s { s with pending := some (.chunk src (chunkBytes src (chunkSize src s) s)) }
  | waitCalled (ms : Nat) (hb : s.busy = true) (hm : microOp s = some (.wait ms)) :
      Move s { emit (.wait ms) s with pending := some (.wait ms) }
  | acquireCalled (hb : s.busy = true) (hm : microOp s = some .acquire) : Move s { s with pending := some .acquire }
  | streamBegun (hp : s.pending = none) (hb : s.busy = true) (hm : microOp s = some .streamBegin) :
      Move s (advance (driveDc .data s))
  | streamEmpty (src : Src) (hp : s.pending = none) (hb : s.busy = true) (hm : microOp s = some (.streamChunk src))
      (h0 : s.rem = 0) : Move s (advance s)
  | streamEnded (hp : s.pending = none) (hb : s.busy = true) (hm : microOp s = some .streamEnd) :
      Move s (advance (driveDc .cmd s))
  | released (hp : s.pending = none) (hb : s.busy = true) (hm : microOp s = some .release) :
      Move s (advance (emit .release s))
  | responded (lc : Option Lc) (hp : s.pending = none) (hb : s.busy = true) (hm : microOp s = some (.respond lc)) :
      Move s (finish lc s)
  | acquireAnswered (r : Answer) (rest : List Answer) (hp : s.pending = some .acquire) :
      Move s (acquireDone r { s with pending := none, answers := rest })
  | unitAnswered (l : Level) (b : Byte) (r : Answer) (rest : List Answer) (hp : s.pending = some (.unit l b)) :
      Move s (unitDone l b r { s with pending := none, answers := rest })
  | chunkAnswered (src : Src) (bs : List Byte) (r : Answer) (rest : List Answer)
      (hp : s.pending = some (.chunk src bs)) : Move s (chunkDone src bs r { s with pending := none, answers := rest })
  | waitReturned (ms n : Nat) (hp : s.pending = some (.wait ms)) :
      Move s (advance { s with pending := none, delayReturns := n })

/-- Any number of moves. -/
abbrev Moves : State → State → Prop := Relation.ReflTransGen Move

theorem settle_moves (s : State) : Moves s (settle s) := by
  obtain h | ⟨r, rest, hp, -, h⟩ | ⟨l, b, r, rest, hp, -, h⟩ | ⟨src, bs, r, rest, hp, -, h⟩ | ⟨ms, n, hp, -, h⟩ :=
    settle_cases s
  · rw [h]
  · exact h ▸ .single (.acquireAnswered r rest hp)
  · exact h ▸ .single (.unitAnswered l b r rest hp)
  · exact h ▸ .single (.chunkAnswered src bs r rest hp)
  · exact h ▸ .single (.waitReturned ms n hp)

/-- A call is made, and answered where its answer is at hand. -/
theorem callOut_moves {s u : State} {p : Pending} (h : Move s { u with pending := some p }) : Moves s (callOut p u) :=
  .head h (settle_moves _)

theorem runMicroOp_moves {m : MicroOp} {s t : State} (hp : s.pending = none) (hb : s.busy = true)
    (hm : microOp s = some m) (h : runMicroOp m s = .next t) : Moves s t := by
  cases m with
  | writeCommand b =>
    obtain ⟨-, -, -, rfl⟩ := runCommandByte_next h
    exact callOut_moves (.unitCalled .cmd b hb hm)
  | writeData b => cases h; exact callOut_moves (.unitCalled .data b hb hm)
  | streamBegin => cases h; exact .single (.streamBegun hp hb hm)
  | streamChunk src =>
    obtain ⟨h0, rfl⟩ | ⟨h0, ht, rfl⟩ := streamChunk_next h
    · exact .single (.streamEmpty src hp hb hm h0)
    · exact callOut_moves (.chunkCalled src hb hm h0 ht)
  | streamEnd => cases h; exact .single (.streamEnded hp hb hm)
  | wait ms => cases h; exact callOut_moves (.waitCalled ms hb hm)
  | acquire => cases h; exact callOut_moves (.acquireCalled hb hm)
  | release => cases h; exact .single (.released hp hb hm)
  | respond lc => cases h; exact .single (.responded lc hp hb hm)

theorem blockStep_moves {s t : State} (h : blockStep s = .next t) : Moves s t := by
  obtain ⟨-, rfl⟩ | ⟨hp, hb, m, hm, h⟩ | ⟨-, -, rfl⟩ := blockStep_cases h
  · exact settle_moves s
  · exact runMicroOp_moves hp hb hm h
  · exact .refl

/-! ## Acceptance -/

/-- A window that passes its checks has its corners in order (R36, R170). -/
theorem corner_le {x w : Half} (hw : 1 ≤ w.toNat) (hx : x.toNat + w.toNat ≤ 65536) :
    x ≤ BitVec.ofNat 16 (corner x w) := by
  have := corner_toNat hw hx
  rw [BitVec.le_def]
  omega

/-- A request's meaning is acceptance with a latch that writes operand registers only, and where its checks pass the
drawing registers it latches fit. -/
theorem exec_request_fits (i : Instr) (s : State) (hi : i.isWire = false) :
    ∃ o c f, exec i s = accept o c f s ∧ OperandsOnly f ∧ (c = none → drawFits o (f (beginRequest o s))) := by
  cases i with
  | init => exact ⟨_, _, _, exec_init s, fun _ => rfl, fun _ => trivial⟩
  | uninit => exact ⟨_, _, _, exec_uninit s, fun _ => rfl, fun _ => trivial⟩
  | pixelDraw x y c =>
    exact ⟨_, _, _, exec_pixelDraw x y c s, fun _ => rfl, fun _ => ⟨BitVec.le_refl x, BitVec.le_refl y, nofun⟩⟩
  | rectDraw x y w h c =>
    refine ⟨_, _, _, exec_rectDraw x y w h c s, fun _ => rfl, fun hc => ?_⟩
    obtain ⟨hw, hh, hx, hy⟩ := checkWindow_none.1 (checkRect_window hc).1
    exact ⟨corner_le hw hx, corner_le hh hy, nofun, rfl⟩
  | bufferDraw x y w h p l =>
    refine ⟨_, _, _, exec_bufferDraw x y w h p l s, fun _ => rfl, fun hc => ?_⟩
    obtain ⟨hwin, hend⟩ := checkBuffer_window hc
    obtain ⟨hw, hh, hx, hy⟩ := checkWindow_none.1 hwin
    exact ⟨corner_le hw hx, corner_le hh hy, nofun, fun _ => hend⟩
  | rotationSet o => exact ⟨_, _, _, exec_rotationSet o s, fun _ => rfl, fun _ => trivial⟩
  | displayInvert b => exact ⟨_, _, _, exec_displayInvert b s, fun _ => rfl, fun _ => trivial⟩
  | display => exact ⟨_, _, _, exec_display s, fun _ => rfl, fun _ => trivial⟩
  | _ => cases hi

theorem acceptPort_moves {d : Descriptor} {s t : State} (hf : s.fault = none) (h : acceptPort d s = .next t) :
    Moves s t := by
  obtain ⟨c, rfl⟩ | ⟨-, i, hd, he⟩ := acceptPort_next hf h
  · exact .single (.outside _ _ _ _ _ _ _)
  · obtain ⟨o, c, f, e, hlatch, hfits⟩ := exec_request_fits i s (decodeRequest_request hd)
    obtain ⟨-, ⟨c, rfl⟩ | ⟨hb, hl, hc, rfl⟩⟩ := accept_next (e.symm.trans he)
    · exact .single (.outside _ _ _ _ _ _ _)
    · exact .single (.accepted o f hb hl hlatch (hfits hc))

/-! ## A step -/

/-- Whether a reset is the outside world's next move. -/
theorem reset_or_noReset (s : State) : (∃ rest, s.host = .reset :: rest) ∨ noReset s := by
  by_cases h : ∃ rest, s.host = .reset :: rest
  · exact .inl h
  · exact .inr fun rest hr => h ⟨rest, hr⟩

/-- Every step that answers a next state runs under an admitted configuration (R277). -/
theorem configOk_of_step {s t : State} (h : step s = .next t) : configOk s = true := by
  by_contra hc
  rw [step_refused (by simpa using hc)] at h
  cases h

/-- A step whose next outside move is a reset is the reset (R300). -/
theorem step_reset_next {s t : State} {rest : List HostMove} (h : step s = .next t) (hr : s.host = .reset :: rest) :
    t = resetBlock { s with host := rest } := by
  rw [step_reset (configOk_of_step h) hr] at h
  cases h
  rfl

/-- Every step is a sequence of moves. -/
theorem step_moves {s t : State} (h : step s = .next t) : Moves s t := by
  obtain ⟨rest, hr⟩ | hn := reset_or_noReset s
  · rw [step_reset_next h hr]
    exact .tail (.single (.outside _ _ _ _ rest _ _)) .reset
  · obtain ⟨-, ⟨hf, d, -, h⟩ | ⟨p, as, n, rest, rfl⟩ | ⟨a, b, rest, -, rfl⟩ | ⟨-, -, rest, h⟩⟩ := step_cases h hn
    · exact .head (.outside _ _ _ _ _ _ _) (acceptPort_moves (s := takePort d s) hf h)
    · exact .single (.outside _ _ _ _ _ _ _)
    · exact .single (.outside _ _ _ _ _ _ _)
    · exact .head (.outside _ _ _ _ rest _ _) (blockStep_moves h)

/-- What every move keeps, every step keeps. -/
theorem step_keeps {P : State → Prop} (keeps : ∀ {s t}, P s → Move s t → P t) {s t : State} (hs : P s)
    (h : step s = .next t) : P t := by
  have moves := step_moves h
  clear h
  induction moves with
  | refl => exact hs
  | tail _ hm ih => exact keeps ih hm

end Sys2Proof.Proofs
end

section
/-! PROOFS. The running-request invariant (R32, R34, R36, R40, R42): every move keeps it, so every step does, and from
it the step always answers a next state. -/

namespace Sys2Proof.Proofs

open Sys2Proof.Machine Sys2Proof.Safety Sys2Proof.Laws

/-! ## The stream in a drawing request's micro-program -/

/-- The source of a drawing request's stream; none for a request that does not draw (R171, R174, R177). -/
def streamSource : Op → Option Src
  | .pixelDraw => some .pix
  | .rectDraw => some .pat
  | .bufferDraw => some .mem
  | _ => none

/-- SEQ 11 of a drawing request is streamBegin and SEQ 12 its streamChunk (R160, R171, R174, R177). -/
theorem stream_positions {o : Op} {src : Src} (s : State) (h : streamSource o = some src) :
    (microProgram o s)[11]? = some .streamBegin ∧ (microProgram o s)[12]? = some (.streamChunk src) := by
  cases o <;> cases h <;> exact ⟨rfl, rfl⟩

/-- A running streamChunk: the request draws from that source, at SEQ 12. -/
theorem streamSource_of_chunk {o : Op} {s : State} {src : Src} (ho : s.op = opCode o)
    (hm : microOp s = some (.streamChunk src)) : s.seq = 12 ∧ streamSource o = some src := by
  rw [microOp_eq ho] at hm
  obtain ⟨hn, ⟨rfl, rfl⟩ | ⟨rfl, rfl⟩ | ⟨rfl, rfl⟩⟩ := streamChunk_position hm <;> exact ⟨hn, rfl⟩

/-- A micro-operation at SEQ is one of its request's micro-program. -/
theorem microOp_program {s : State} {m : MicroOp} (h : microOp s = some m) :
    ∃ o, s.op = opCode o ∧ (microProgram o s)[s.seq]? = some m := by
  have code : ∀ (c : BitVec 4) (o : Op), opOfCode c = some o → c = opCode o := by
    intro c o
    cases o <;> revert c <;> decide
  unfold microOp at h
  split at h
  · cases h
  · next o ho => exact ⟨o, code _ _ ho, h⟩

/-! ## What the invariant says -/

theorem requestInv_running {s : State} (h : RequestInv s) (hb : s.busy = true) :
    ∃ o, s.op = opCode o ∧ s.seq < (microProgram o s).length ∧ lifecycleOk o s.lc = true ∧ pendingFits s ∧
      drawFits o s := by
  obtain ⟨-, h⟩ := h
  rwa [requestFits, if_pos hb] at h

theorem requestInv_waiting {s : State} (h : RequestInv s) (hb : s.busy = false) : s.pending = none := by
  obtain ⟨-, h⟩ := h
  rwa [requestFits, if_neg (by simp [hb])] at h

/-- A call is outstanding only while BUSY. -/
theorem busy_of_pending {s : State} {p : Pending} (h : RequestInv s) (hp : s.pending = some p) : s.busy = true := by
  by_contra hb
  rw [requestInv_waiting h (by simpa using hb)] at hp
  cases hp

theorem pendingFits_of_requestInv {s : State} {p : Pending} (h : RequestInv s) (hp : s.pending = some p) :
    pendingFits s := by
  obtain ⟨_, -, -, -, hf, -⟩ := requestInv_running h (busy_of_pending h hp)
  exact hf

/-- The micro-operation that makes a call. -/
def callOp : Pending → MicroOp
  | .acquire => .acquire
  | .unit l b => unitOp l b
  | .chunk src _ => .streamChunk src
  | .wait ms => .wait ms

theorem callOp_ne_respond (p : Pending) (v : Option Lc) : callOp p ≠ .respond v := by
  rcases p with _ | ⟨_ | _, _⟩ | _ | _ <;> exact nofun

/-- An outstanding call is the one the micro-operation at SEQ makes. -/
theorem microOp_of_pending {s : State} {p : Pending} (h : RequestInv s) (hp : s.pending = some p) :
    microOp s = some (callOp p) := by
  have hf := pendingFits_of_requestInv h hp
  rw [pendingFits, hp] at hf
  rcases p with _ | ⟨_ | _, _⟩ | _ | _
  · exact hf
  · exact hf.1
  · exact hf.1
  · exact hf.1
  · exact hf

/-- An outstanding unit is on its line (R42, R149). -/
theorem dc_of_unit {s : State} {l : Level} {b : Byte} (h : RequestInv s) (hp : s.pending = some (.unit l b)) :
    s.dc = some l := by
  have hf := pendingFits_of_requestInv h hp
  rw [pendingFits, hp] at hf
  cases l <;> exact hf.2

/-- An outstanding chunk has its size and lies in host memory. -/
theorem chunk_of_pending {s : State} {src : Src} {bs : List Byte} (h : RequestInv s)
    (hp : s.pending = some (.chunk src bs)) :
    s.rem ≠ 0 ∧ bs.length = chunkSize src s ∧ chunkPastTop src s = false := by
  have hf := pendingFits_of_requestInv h hp
  rw [pendingFits, hp] at hf
  exact hf.2

/-- A drawing request's line is at DATA while chunks go out. -/
theorem dc_of_draw {o : Op} {s : State} {src : Src} (h : drawFits o s) (ho : streamSource o = some src)
    (hn : s.seq = 12) : s.dc = some .data := by
  cases o <;> cases ho
  · exact h.2.2 hn
  · exact h.2.2.1 hn
  · exact h.2.2.1 hn

/-- The line is at DATA at a streamChunk (R143, R149). -/
theorem dc_of_chunk {s : State} {src : Src} (h : RequestInv s) (hb : s.busy = true)
    (hm : microOp s = some (.streamChunk src)) : s.dc = some .data := by
  obtain ⟨o, ho, -, -, -, hd⟩ := requestInv_running h hb
  obtain ⟨hn, hsrc⟩ := streamSource_of_chunk ho hm
  exact dc_of_draw hd hsrc hn

/-! ## How the invariant is kept -/

/-- A request that is over leaves no call outstanding. -/
theorem requestInv_idle {s : State} (hc : configOk s = true) (hb : s.busy = false) (hp : s.pending = none) :
    RequestInv s := ⟨hc, by rwa [requestFits, if_neg (by simp [hb])]⟩

/-- A drawing request's registers fit on where the line is at DATA at SEQ 12 and a buffer's unread part ends in host
memory. -/
theorem drawFits_moved {o : Op} {s t : State} (h : drawFits o s) (hf : BlockFrame s t)
    (hdc : ∀ src, streamSource o = some src → t.seq = 12 → t.dc = some .data)
    (hmem : o = .bufferDraw → t.seq ≤ 12 → t.cur.toNat + t.rem.toNat ≤ 2 ^ 32) : drawFits o t := by
  have corners : s.x0 ≤ s.x1 → s.y0 ≤ s.y1 → t.x0 ≤ t.x1 ∧ t.y0 ≤ t.y1 := by
    rw [hf.x0, hf.x1, hf.y0, hf.y1]
    exact .intro
  cases o with
  | pixelDraw =>
    obtain ⟨hx, hy, -⟩ := h
    exact ⟨(corners hx hy).1, (corners hx hy).2, hdc _ rfl⟩
  | rectDraw =>
    obtain ⟨hx, hy, -, hpat⟩ := h
    exact ⟨(corners hx hy).1, (corners hx hy).2, hdc _ rfl, by rw [hf.pat, hf.color, hpat]⟩
  | bufferDraw =>
    obtain ⟨hx, hy, -⟩ := h
    exact ⟨(corners hx hy).1, (corners hx hy).2, hdc _ rfl, hmem rfl⟩
  | _ => trivial

/-- A move of the running request: it goes on, SEQ stays or leaves a micro-operation that is no respond. -/
theorem requestInv_moved {o : Op} {m : MicroOp} {s t : State} (h : RequestInv s) (hf : BlockFrame s t)
    (hb : t.busy = true) (hlc : t.lc = s.lc) (ho : s.op = opCode o) (hl : lifecycleOk o s.lc = true)
    (hm : microOp s = some m) (hseq : t.seq = s.seq ∨ (t.seq = s.seq + 1 ∧ ∀ v, m ≠ .respond v))
    (hp : pendingFits t) (hd : drawFits o t) : RequestInv t := by
  refine ⟨by rw [configOk, hf.cfg]; exact h.1, ?_⟩
  rw [requestFits, if_pos hb]
  refine ⟨o, hf.op.trans ho, ?_, by rwa [hlc], hp, hd⟩
  rw [hf.program_eq]
  rw [microOp_eq ho] at hm
  obtain hseq | ⟨hseq, hr⟩ := hseq <;> rw [hseq]
  · exact (List.getElem?_eq_some_iff.1 hm).1
  · exact microProgram_next hm hr

/-- SEQ advances past a micro-operation that is no respond, CUR and REM staying as they are; past streamBegin the line
is at DATA. -/
theorem requestInv_advanced {m : MicroOp} {s : State} (h : RequestInv s) (hb : s.busy = true)
    (hm : microOp s = some m) (hr : ∀ v, m ≠ .respond v) (d : Option Level) (hdc : m = .streamBegin → d = some .data)
    (es : List Event) (as : List Answer) (n : Nat) :
    RequestInv { s with
      seq := s.seq + 1, dc := d, trace := s.trace ++ es, pending := none, answers := as, delayReturns := n } := by
  obtain ⟨o, ho, -, hl, -, hd⟩ := requestInv_running h hb
  have hf : BlockFrame s { s with
      seq := s.seq + 1, dc := d, trace := s.trace ++ es, pending := none, answers := as, delayReturns := n } :=
    .of_eq es [] (by simp)
  refine requestInv_moved h hf hb rfl ho hl hm (.inr ⟨rfl, hr⟩) trivial (drawFits_moved hd hf ?_ ?_)
  · intro src hsrc hn
    have h11 : s.seq = 11 := by simpa using hn
    rw [microOp_eq ho, h11, (stream_positions s hsrc).1] at hm
    exact hdc (by simpa using hm.symm)
  · rintro rfl hn
    obtain ⟨-, -, -, hcur⟩ := hd
    exact hcur (Nat.le_of_succ_le hn)

/-- The same where the micro-operation makes no call. -/
theorem requestInv_completed {m : MicroOp} {s : State} (h : RequestInv s) (hp : s.pending = none) (hb : s.busy = true)
    (hm : microOp s = some m) (hr : ∀ v, m ≠ .respond v) (d : Option Level) (hdc : m = .streamBegin → d = some .data)
    (es : List Event) : RequestInv { s with seq := s.seq + 1, dc := d, trace := s.trace ++ es } := by
  have ha := requestInv_advanced h hb hm hr d hdc es s.answers s.delayReturns
  rwa [← hp] at ha

/-- A call made by the micro-operation at SEQ; a chunk's leaves the line as it is. -/
theorem requestInv_called {p : Pending} {s : State} (h : RequestInv s) (hb : s.busy = true)
    (hm : microOp s = some (callOp p)) (d : Option Level) (hdc : ∀ src, callOp p = .streamChunk src → d = s.dc)
    (es : List Event) (hp : pendingFits { s with dc := d, trace := s.trace ++ es, pending := some p }) :
    RequestInv { s with dc := d, trace := s.trace ++ es, pending := some p } := by
  obtain ⟨o, ho, -, hl, -, hd⟩ := requestInv_running h hb
  have hf : BlockFrame s { s with dc := d, trace := s.trace ++ es, pending := some p } := .of_eq es [] (by simp)
  refine requestInv_moved h hf hb rfl ho hl hm (.inl rfl) hp (drawFits_moved hd hf ?_ ?_)
  · intro src hsrc hn
    rw [microOp_eq ho, show s.seq = 12 from hn, (stream_positions s hsrc).2] at hm
    exact (hdc src (by simpa using hm.symm)).trans (dc_of_draw hd hsrc hn)
  · rintro rfl
    obtain ⟨-, -, -, hcur⟩ := hd
    exact hcur

/-- A failed transfer: the request is over, or INIT goes on (R151). -/
theorem requestInv_transferFailed {m : MicroOp} {s : State} (h : RequestInv s) (hb : s.busy = true)
    (hm : microOp s = some m) (hr : ∀ v, m ≠ .respond v) (hs : m ≠ .streamBegin) (e : Event) (as : List Answer) :
    RequestInv (transferFailed (emit e { s with pending := none, answers := as })) := by
  obtain ⟨-, ht⟩ | ⟨-, ht⟩ | ⟨-, ht⟩ := transferFailed_cases (emit e { s with pending := none, answers := as })
  · exact ht ▸ requestInv_advanced h hb hm hr s.dc (fun hm => absurd hm hs) [e] as s.delayReturns
  · exact ht ▸ requestInv_idle h.1 rfl rfl
  · exact ht ▸ requestInv_idle h.1 rfl rfl

/-- A delivered chunk: REM falls by its length, and a buffer's CUR rises by it, so that the unread part stays in host
memory (R144). -/
theorem requestInv_chunk {src : Src} {bs : List Byte} {s : State} (h : RequestInv s)
    (hp : s.pending = some (.chunk src bs)) (as : List Answer) :
    RequestInv (chunkDone src bs .ok { s with pending := none, answers := as }) := by
  have hb := busy_of_pending h hp
  have hm := microOp_of_pending h hp
  obtain ⟨-, hlen, -⟩ := chunk_of_pending h hp
  obtain ⟨o, ho, -, hl, -, hd⟩ := requestInv_running h hb
  obtain ⟨hn, hsrc⟩ := streamSource_of_chunk ho hm
  have hf : BlockFrame s (chunkDone src bs .ok { s with pending := none, answers := as }) :=
    (BlockFrame.of_eq [] [] (by simp)).trans (frame_chunkDone _ _ _ _)
  obtain ⟨t, ht⟩ : ∃ t, t = chunkDone src bs .ok { s with pending := none, answers := as } := ⟨_, rfl⟩
  rw [← ht] at hf ⊢
  rw [chunkDone_ok] at ht
  have hseq : t.seq = if s.rem.toNat - bs.length = 0 then s.seq + 1 else s.seq := by rw [ht]
  refine requestInv_moved h hf (by rw [ht]; exact hb) (by rw [ht]) ho hl hm ?_ (by rw [ht]; trivial)
    (drawFits_moved hd hf (fun _ _ _ => ?_) ?_)
  · rw [hseq]
    split
    · exact .inr ⟨rfl, nofun⟩
    · exact .inl rfl
  · rw [show t.dc = s.dc by rw [ht]]
    exact dc_of_draw hd hsrc hn
  · rintro rfl hle
    cases hsrc
    obtain ⟨-, -, -, hend⟩ := hd
    have hend := hend hn.le
    have more : s.rem.toNat - bs.length ≠ 0 := fun h0 => by
      rw [hseq, if_pos h0, hn] at hle
      omega
    have hcur : t.cur.toNat = s.cur.toNat + bs.length := by
      have hsum : s.cur.toNat + bs.length < 2 ^ 32 := by omega
      rw [ht]
      exact advanceCurFor_mem (s := { s with pending := none, answers := as }) hsum
    have hrem : t.rem.toNat = s.rem.toNat - bs.length := by
      rw [ht]
      exact takeRem_toNat bs.length s
    omega

/-- Every move keeps the running-request invariant. -/
theorem requestInv_move {s t : State} (h : RequestInv s) (hm : Move s t) : RequestInv t := by
  cases hm with
  | reset => exact requestInv_idle h.1 rfl rfl
  | outside => exact h
  | accepted o f hb hl hf hd =>
    have hp := requestInv_waiting h hb
    rw [hf] at hd ⊢
    exact ⟨h.1, (if_pos rfl).mpr ⟨o, rfl, by cases o <;> exact Nat.succ_pos _, hl, by simp [pendingFits, hp], hd⟩⟩
  | unitCalled l b hb hm =>
    refine requestInv_called (p := .unit l b) h hb hm (some l) (by cases l <;> exact nofun) [.dc l] ?_
    cases l <;> exact ⟨hm, rfl⟩
  | chunkCalled src hb hm h0 ht =>
    have hp := requestInv_called (p := .chunk src _) h hb hm s.dc (fun _ _ => rfl) []
      ⟨hm, h0, length_chunkBytes src s, ht⟩
    rwa [List.append_nil] at hp
  | waitCalled ms hb hm => exact requestInv_called (p := .wait ms) h hb hm s.dc nofun [.wait ms] hm
  | acquireCalled hb hm =>
    have hp := requestInv_called (p := .acquire) h hb hm s.dc nofun [] hm
    rwa [List.append_nil] at hp
  | streamBegun hp hb hm => exact requestInv_completed h hp hb hm nofun (some .data) (fun _ => rfl) [.dc .data]
  | streamEmpty src hp hb hm h0 =>
    have ha := requestInv_completed h hp hb hm nofun s.dc nofun []
    rwa [List.append_nil] at ha
  | streamEnded hp hb hm => exact requestInv_completed h hp hb hm nofun (some .cmd) nofun [.dc .cmd]
  | released hp hb hm => exact requestInv_completed h hp hb hm nofun s.dc nofun [.release]
  | responded lc hp => cases lc <;> exact requestInv_idle h.1 rfl hp
  | acquireAnswered r rest hp =>
    cases r with
    | ok =>
      exact requestInv_advanced h (busy_of_pending h hp) (microOp_of_pending h hp) nofun s.dc nofun [.acquire .ok] rest
        s.delayReturns
    | err => exact requestInv_idle h.1 rfl rfl
  | unitAnswered l b r rest hp =>
    have hr := callOp_ne_respond (.unit l b)
    have hs : callOp (.unit l b) ≠ .streamBegin := by cases l <;> exact nofun
    cases r with
    | ok =>
      exact requestInv_advanced h (busy_of_pending h hp) (microOp_of_pending h hp) hr s.dc (absurd · hs)
        [.xfer l [b] .ok] rest s.delayReturns
    | err => exact requestInv_transferFailed h (busy_of_pending h hp) (microOp_of_pending h hp) hr hs _ rest
  | chunkAnswered src bs r rest hp =>
    cases r with
    | ok => exact requestInv_chunk h hp rest
    | err => exact requestInv_transferFailed h (busy_of_pending h hp) (microOp_of_pending h hp) nofun nofun _ rest
  | waitReturned ms n hp =>
    have ha := requestInv_advanced h (busy_of_pending h hp) (microOp_of_pending h hp) nofun s.dc nofun [] s.answers n
    rwa [List.append_nil] at ha

/-- Settles O38: every move keeps the invariant, and a step is a sequence of moves. -/
theorem stepKeepsRequestInvariant : Obligations.StepKeepsRequestInvariant :=
  fun _ _ h hs => step_keeps requestInv_move h hs

end Sys2Proof.Proofs
end

section
/-! PROOFS. The invariants of TRACE: what a move emits, said once; then every transfer stays legal (R52, R106, R116,
R307) and on the line last driven (R42, R149, R305), and ACQ stays what TRACE says (R44, R201, R212). -/

namespace Sys2Proof.Proofs

open Sys2Proof.Machine Sys2Proof.Safety Sys2Proof.Laws

/-! ## The bytes of a transfer -/

/-- Is a micro-operation's command byte, if it sends one, one of the eleven? -/
def commandKnown : MicroOp → Bool
  | .writeCommand b => (decodeWire b).isOk
  | _ => true

/-- The micro-programs send the eleven command bytes only (R108, R116). -/
theorem microProgram_commandKnown (o : Op) (s : State) : (microProgram o s).all commandKnown = true := by
  cases o with
  | displayInvert => cases hi : s.inv <;> simp [microProgram, hi] <;> decide
  | _ => rfl

/-- A writeCommand at SEQ sends one of the eleven bytes. -/
theorem decodeWire_of_microOp {s : State} {b : Byte} (hm : microOp s = some (.writeCommand b)) :
    (decodeWire b).isOk = true := by
  obtain ⟨o, -, hpos⟩ := microOp_program hm
  exact List.all_eq_true.1 (microProgram_commandKnown o s) _ (List.mem_of_getElem? hpos)

theorem transferLegal_data {n : Nat} {bs : List Byte} (h1 : 1 ≤ bs.length) (hn : bs.length ≤ n) (r : Answer) :
    transferLegal n (.xfer .data bs r) = true := by
  cases bs with
  | nil => cases h1
  | cons b bs => cases bs <;> simpa [transferLegal] using hn

/-- An admitted CHUNK_MAX is at least 32 (R6). -/
theorem chunkMax_ge {s : State} (h : RequestInv s) : 32 ≤ s.cfg.chunkMax := by
  obtain ⟨hc, -⟩ := h
  simpa [configOk, Config.wf] using hc

/-- An outstanding unit is legal. -/
theorem transferLegal_unit {s : State} {l : Level} {b : Byte} (h : RequestInv s)
    (hp : s.pending = some (.unit l b)) (r : Answer) : transferLegal s.cfg.chunkMax (.xfer l [b] r) = true := by
  cases l with
  | cmd => exact decodeWire_of_microOp (microOp_of_pending h hp)
  | data => exact transferLegal_data (bs := [b]) (Nat.le_refl 1) (Nat.le_trans (by simp) (chunkMax_ge h)) r

/-- An outstanding chunk is legal: it is not empty, and its cap is at most CHUNK_MAX (R6, R144). -/
theorem transferLegal_chunk {s : State} {src : Src} {bs : List Byte} (h : RequestInv s)
    (hp : s.pending = some (.chunk src bs)) (r : Answer) : transferLegal s.cfg.chunkMax (.xfer .data bs r) = true := by
  have hmax := chunkMax_ge h
  obtain ⟨h0, hlen, -⟩ := chunk_of_pending h hp
  have hrem : s.rem.toNat ≠ 0 := fun hz => h0 (BitVec.eq_of_toNat_eq hz)
  have hcap : 1 ≤ chunkCap s.cfg src ∧ chunkCap s.cfg src ≤ s.cfg.chunkMax := by
    cases src <;> simp only [chunkCap, Config.fillChunk] <;> omega
  rw [chunkSize] at hlen
  exact transferLegal_data (by omega) (by omega) r

/-! ## What a move emits -/

/-- What one move appends to TRACE, and DC after it: at most one event. -/
inductive Emits (s t : State) : Prop
  | cleared (ht : t.trace = []) (hd : t.dc = none)
  | nothing (ht : t.trace = s.trace) (hd : t.dc = s.dc)
  | line (l : Level) (ht : t.trace = s.trace ++ [.dc l]) (hd : t.dc = some l)
  | transfer (l : Level) (bs : List Byte) (r : Answer) (ht : t.trace = s.trace ++ [.xfer l bs r]) (hd : t.dc = s.dc)
      (hl : s.dc = some l) (hlegal : transferLegal s.cfg.chunkMax (.xfer l bs r) = true)
  | acquisition (r : Answer) (ht : t.trace = s.trace ++ [.acquire r]) (hd : t.dc = s.dc)
  | release (ht : t.trace = s.trace ++ [.release]) (hd : t.dc = s.dc)
  | wait (ms : Nat) (ht : t.trace = s.trace ++ [.wait ms]) (hd : t.dc = s.dc)

theorem transferFailed_trace (s : State) : (transferFailed s).trace = s.trace := by
  obtain ⟨-, h⟩ | ⟨-, h⟩ | ⟨-, h⟩ := transferFailed_cases s <;> rw [h] <;> rfl

theorem unitDone_trace (l : Level) (b : Byte) (r : Answer) (s : State) :
    (unitDone l b r s).trace = s.trace ++ [.xfer l [b] r] := by
  cases r
  · rfl
  · exact transferFailed_trace _

theorem unitDone_dc (l : Level) (b : Byte) (r : Answer) (s : State) : (unitDone l b r s).dc = s.dc := by
  cases r
  · rfl
  · exact transferFailed_dc _

theorem chunkDone_trace (src : Src) (bs : List Byte) (r : Answer) (s : State) :
    (chunkDone src bs r s).trace = s.trace ++ [.xfer .data bs r] := by
  cases r
  · rw [chunkDone_ok]
  · exact transferFailed_trace _

theorem chunkDone_dc (src : Src) (bs : List Byte) (r : Answer) (s : State) : (chunkDone src bs r s).dc = s.dc := by
  cases r
  · rw [chunkDone_ok]
  · exact transferFailed_dc _

theorem move_emits {s t : State} (h : RequestInv s) (hm : Move s t) : Emits s t := by
  cases hm with
  | reset => exact .cleared rfl rfl
  | outside => exact .nothing rfl rfl
  | accepted o f _ _ hf _ => rw [hf]; exact .nothing rfl rfl
  | unitCalled l b => exact .line l rfl rfl
  | chunkCalled src => exact .nothing rfl rfl
  | waitCalled ms => exact .wait ms rfl rfl
  | acquireCalled => exact .nothing rfl rfl
  | streamBegun => exact .line .data rfl rfl
  | streamEmpty => exact .nothing rfl rfl
  | streamEnded => exact .line .cmd rfl rfl
  | released => exact .release rfl rfl
  | responded lc => cases lc <;> exact .nothing rfl rfl
  | acquireAnswered r rest hp => cases r <;> exact .acquisition _ rfl rfl
  | unitAnswered l b r rest hp =>
    exact .transfer l [b] r (unitDone_trace ..) (unitDone_dc ..) (dc_of_unit h hp) (transferLegal_unit h hp r)
  | chunkAnswered src bs r rest hp =>
    exact .transfer .data bs r (chunkDone_trace ..) (chunkDone_dc ..)
      (dc_of_chunk h (busy_of_pending h hp) (microOp_of_pending h hp)) (transferLegal_chunk h hp r)
  | waitReturned => exact .nothing rfl rfl

theorem move_cfg {s t : State} (hm : Move s t) : t.cfg = s.cfg := by
  cases hm with
  | accepted o f _ _ hf _ => rw [hf]; rfl
  | responded lc => cases lc <;> rfl
  | acquireAnswered r rest => exact (frame_acquireDone r _).cfg
  | unitAnswered l b r rest => exact (frame_unitDone l b r _).cfg
  | chunkAnswered src bs r rest => exact (frame_chunkDone src bs r _).cfg
  | _ => rfl

/-! ## Transfers stay legal -/

theorem transfersLegal_snoc (n : Nat) (t : List Event) (e : Event) :
    transfersLegal n (t ++ [e]) = (transfersLegal n t && transferLegal n e) := by
  simp [transfersLegal]

theorem transferInv_move {s t : State} (h : TransferInv s) (hm : Move s t) : TransferInv t := by
  obtain ⟨hr, hl⟩ := h
  refine ⟨requestInv_move hr hm, ?_⟩
  rw [move_cfg hm]
  cases move_emits hr hm with
  | cleared ht => rw [ht]; rfl
  | nothing ht => rw [ht, hl]
  | line l ht => rw [ht, transfersLegal_snoc, hl]; rfl
  | transfer l bs r ht _ _ hlegal => rw [ht, transfersLegal_snoc, hl, hlegal]; rfl
  | acquisition r ht => rw [ht, transfersLegal_snoc, hl]; rfl
  | release ht => rw [ht, transfersLegal_snoc, hl]; rfl
  | wait ms ht => rw [ht, transfersLegal_snoc, hl]; rfl

/-- Settles O40: a move emits at most one event, and a transfer among them is an outstanding call's, whose bytes the
running-request invariant bounds. -/
theorem stepKeepsTransfersLegal : Obligations.StepKeepsTransfersLegal :=
  fun _ _ h hs => step_keeps transferInv_move h hs

/-! ## The select line -/

theorem lineAfter_append (a b : List Event) : ∀ l, lineAfter l (a ++ b) = lineAfter (lineAfter l a) b := by
  induction a with
  | nil => intro l; rfl
  | cons e a ih => intro l; cases e <;> exact ih _

theorem lineRight_append (a b : List Event) :
    ∀ l, lineRight l (a ++ b) = (lineRight l a && lineRight (lineAfter l a) b) := by
  induction a with
  | nil => intro l; rfl
  | cons e a ih => intro l; cases e <;> simp [lineRight, lineAfter, ih, Bool.and_assoc]

theorem lineInv_move {s t : State} (h : LineInv s) (hm : Move s t) : LineInv t := by
  obtain ⟨hr, hright, hafter⟩ := h
  have appended : ∀ e, t.trace = s.trace ++ [e] → lineRight s.dc [e] = true → lineAfter s.dc [e] = t.dc →
      lineRight none t.trace = true ∧ lineAfter none t.trace = t.dc := by
    intro e ht he hd
    rw [ht, lineRight_append, lineAfter_append, hafter, hright]
    exact ⟨he, hd⟩
  refine ⟨requestInv_move hr hm, ?_⟩
  cases move_emits hr hm with
  | cleared ht hd => rw [ht, hd]; exact ⟨rfl, rfl⟩
  | nothing ht hd => rw [ht, hd]; exact ⟨hright, hafter⟩
  | line l ht hd => exact appended _ ht rfl hd.symm
  | transfer l bs r ht hd hl => exact appended _ ht (by simp [lineRight, hl]) hd.symm
  | acquisition r ht hd => exact appended _ ht rfl hd.symm
  | release ht hd => exact appended _ ht rfl hd.symm
  | wait ms ht hd => exact appended _ ht rfl hd.symm

/-- Settles O41: the line is driven for each unit as its call is made and for a stream before its chunks, and nothing
drives it while a call is outstanding. -/
theorem stepKeepsSelectLine : Obligations.StepKeepsSelectLine :=
  fun _ _ h hs => step_keeps lineInv_move h hs

/-! ## ACQ -/

theorem heldAfter_append (a b : List Event) : ∀ held, heldAfter held (a ++ b) = heldAfter (heldAfter held a) b := by
  induction a with
  | nil => intro held; rfl
  | cons e a ih =>
    intro held
    cases e with
    | acquire r => cases r <;> exact ih _
    | _ => exact ih _

/-- What the registers say of the transport: ACQ (R44), but released between UNINIT's two micro-operations (R212). -/
def heldNow (s : State) : Bool :=
  if s.busy = true ∧ s.op = opCode .uninit ∧ s.seq = 1 then false else acq s

theorem heldInv_iff (s : State) : HeldInv s ↔ RequestInv s ∧ heldNow s = heldAfter false s.trace := by
  rw [HeldInv, heldNow]
  refine and_congr_right fun _ => ?_
  split
  · exact eq_comm
  · exact Iff.rfl

/-- UNINIT runs outside OFF (R121). -/
theorem not_off_of_uninit {lc : Lc} (h : lifecycleOk .uninit lc = true) : (lc != .off) = true := by
  cases lc with
  | off => cases h
  | ready => rfl
  | initFailed => rfl

theorem heldNow_idle {s : State} (hb : s.busy = false) : heldNow s = (s.lc != .off) := by simp [heldNow, acq, hb]

theorem heldNow_init {s : State} (hb : s.busy = true) (ho : s.op = opCode .init) (hl : lifecycleOk .init s.lc = true) :
    heldNow s = decide (0 < s.seq) := by
  have hlc : s.lc = .off := by simpa [lifecycleOk] using hl
  simp [heldNow, acq, hb, ho, hlc, opCode]

theorem heldNow_uninit {s : State} (hb : s.busy = true) (ho : s.op = opCode .uninit)
    (hl : lifecycleOk .uninit s.lc = true) : heldNow s = decide (s.seq ≠ 1) := by
  by_cases hn : s.seq = 1
  · simp [heldNow, hb, ho, hn]
  · simp [heldNow, acq, not_off_of_uninit hl, hn]

theorem heldNow_other {o : Op} {s : State} (ho : s.op = opCode o) (hi : o ≠ .init) (hu : o ≠ .uninit) :
    heldNow s = (s.lc != .off) := by
  have ni : (s.op == opCode .init) = false := beq_false_of_ne fun e => hi (opCode_injective (ho.symm.trans e))
  have nu : s.op ≠ opCode .uninit := fun e => hu (opCode_injective (ho.symm.trans e))
  simp [heldNow, acq, ni, nu]

/-- Does a micro-operation bear on who holds the transport? -/
def lifecycleOp : MicroOp → Bool
  | .acquire => true
  | .release => true
  | .respond _ => true
  | _ => false

/-- acquire stands at SEQ 0 of INIT only (R147, R202). -/
theorem acquire_position {o : Op} {s : State} {n : Nat} (h : (microProgram o s)[n]? = some .acquire) :
    o = .init ∧ n = 0 := by
  have hm := List.mem_of_getElem? h
  cases o <;> simp [microProgram, initProgram, drawProgram, setWindow, addressParams] at hm
  exact ⟨rfl, (init_positions h).1.1 rfl⟩

/-- respond ends INIT in READY, UNINIT at SEQ 1 in OFF, and every other request in the LC it began in (R204, R212). -/
theorem respond_position {o : Op} {s : State} {n : Nat} {lc : Option Lc}
    (h : (microProgram o s)[n]? = some (.respond lc)) :
    (o = .init ∧ 0 < n ∧ lc = some .ready) ∨ (o = .uninit ∧ n = 1 ∧ lc = some .off) ∨
      (o ≠ .init ∧ o ≠ .uninit ∧ lc = none) := by
  have hm := List.mem_of_getElem? h
  cases o with
  | init =>
    simp [microProgram, initProgram, addressParams] at hm
    subst hm
    have hn := (init_positions h).2.1.1 rfl
    exact .inl ⟨rfl, by omega, rfl⟩
  | uninit =>
    simp [microProgram] at hm
    subst hm
    refine .inr (.inl ⟨rfl, ?_, rfl⟩)
    match n with
    | 0 => simp [microProgram] at h
    | 1 => rfl
    | n + 2 => simp [microProgram] at h
  | _ =>
    simp [microProgram, drawProgram, setWindow, addressParams] at hm
    exact .inr (.inr ⟨nofun, nofun, hm⟩)

/-- Inside a request, between what bears on the transport: INIT is past its acquisition, and UNINIT is not running. -/
theorem inside_request {m : MicroOp} {s : State} (h : RequestInv s) (hb : s.busy = true) (hm : microOp s = some m)
    (hl : lifecycleOp m = false) :
    (s.op = opCode .init ∧ lifecycleOk .init s.lc = true ∧ 0 < s.seq) ∨
      ∃ o, s.op = opCode o ∧ o ≠ .init ∧ o ≠ .uninit := by
  obtain ⟨o, ho, -, hlc, -⟩ := requestInv_running h hb
  rw [microOp_eq ho] at hm
  by_cases hi : o = .init
  · subst hi
    refine .inl ⟨ho, hlc, Nat.pos_of_ne_zero fun h0 => ?_⟩
    rw [(init_positions hm).1.2 h0] at hl
    cases hl
  · refine .inr ⟨o, ho, hi, ?_⟩
    rintro rfl
    have hmem := List.mem_of_getElem? hm
    simp only [microProgram, List.mem_cons, List.not_mem_nil, or_false] at hmem
    obtain rfl | rfl := hmem <;> cases hl

/-- Inside a request what the registers say of the transport does not change. -/
theorem heldNow_goesOn {m : MicroOp} {s t : State} (h : RequestInv s) (hb : s.busy = true) (hm : microOp s = some m)
    (hl : lifecycleOp m = false) (htb : t.busy = true) (hlc : t.lc = s.lc) (hop : t.op = s.op)
    (hseq : s.seq ≤ t.seq) : heldNow t = heldNow s := by
  obtain ⟨ho, hok, hn⟩ | ⟨o, ho, hi, hu⟩ := inside_request h hb hm hl
  · rw [heldNow_init hb ho hok, heldNow_init htb (hop.trans ho) (by rwa [hlc])]
    simp only [hn, decide_true, decide_eq_true_eq]
    omega
  · rw [heldNow_other ho hi hu, heldNow_other (hop.trans ho) hi hu, hlc]

/-- A failed transfer does not change it either: an aborted INIT is INIT_FAILED and still holds the transport (R265). -/
theorem heldNow_transferFailed {m : MicroOp} {s : State} (h : RequestInv s) (hb : s.busy = true)
    (hm : microOp s = some m) (hl : lifecycleOp m = false) (e : Event) (as : List Answer) :
    heldNow (transferFailed (emit e { s with pending := none, answers := as })) = heldNow s := by
  obtain ⟨-, ht⟩ | ⟨hinit, ht⟩ | ⟨hother, ht⟩ :=
    transferFailed_cases (emit e { s with pending := none, answers := as }) <;> rw [ht]
  · exact heldNow_goesOn h hb hm hl hb rfl rfl (Nat.le_succ _)
  · obtain ⟨ho, hok, hn⟩ | ⟨o, ho, hi, -⟩ := inside_request h hb hm hl
    · rw [heldNow_init hb ho hok, heldNow_idle rfl]
      simp [hn]
    · exact absurd (opCode_injective (ho.symm.trans hinit)) hi
  · obtain ⟨ho, -, -⟩ | ⟨o, ho, hi, hu⟩ := inside_request h hb hm hl
    · exact absurd ho hother
    · rw [heldNow_other ho hi hu, heldNow_idle rfl]
      rfl

/-- A request begins with the transport as LC says. -/
theorem heldNow_accepted {o : Op} {s t : State} (hb : s.busy = false) (hl : lifecycleOk o s.lc = true)
    (htb : t.busy = true) (hop : t.op = opCode o) (hseq : t.seq = 0) (hlc : t.lc = s.lc) :
    heldNow t = heldNow s := by
  have htl : lifecycleOk o t.lc = true := by rwa [hlc]
  rw [heldNow_idle hb, ← hlc]
  by_cases hi : o = .init
  · subst hi
    rw [heldNow_init htb hop htl, hseq, show t.lc = .off by simpa [lifecycleOk] using htl]
    rfl
  · by_cases hu : o = .uninit
    · subst hu
      rw [heldNow_uninit htb hop htl, hseq]
      exact (not_off_of_uninit htl).symm
    · exact heldNow_other hop hi hu

/-- The response leaves the transport as it is, and LC agrees with it (R204, R212). -/
theorem heldNow_responded {lc : Option Lc} {s : State} (h : RequestInv s) (hb : s.busy = true)
    (hm : microOp s = some (.respond lc)) : heldNow (finish lc s) = heldNow s := by
  obtain ⟨o, ho, -, hok, -⟩ := requestInv_running h hb
  rw [microOp_eq ho] at hm
  obtain ⟨rfl, hn, rfl⟩ | ⟨rfl, hn, rfl⟩ | ⟨hi, hu, rfl⟩ := respond_position hm
  · rw [heldNow_init hb ho hok, decide_eq_true hn]
    rfl
  · rw [heldNow_uninit hb ho hok, hn]
    rfl
  · rw [heldNow_other ho hi hu]
    exact heldNow_idle rfl

/-- UNINIT's release leaves the transport released before LC says so (R212). -/
theorem heldNow_released {s : State} (h : RequestInv s) (hb : s.busy = true) (hm : microOp s = some .release) :
    heldNow (advance (emit .release s)) = false := by
  obtain ⟨o, ho, -, hok, -⟩ := requestInv_running h hb
  rw [microOp_eq ho] at hm
  obtain ⟨rfl, hn⟩ := release_position hm
  rw [heldNow_uninit (s := advance (emit .release s)) hb ho hok]
  simp [hn]

/-- An outstanding acquisition is INIT's, which holds nothing yet (R147, R201). -/
theorem init_of_acquire {s : State} (h : RequestInv s) (hp : s.pending = some .acquire) :
    s.op = opCode .init ∧ lifecycleOk .init s.lc = true ∧ s.seq = 0 := by
  obtain ⟨o, ho, -, hok, -⟩ := requestInv_running h (busy_of_pending h hp)
  have hm := microOp_of_pending h hp
  rw [microOp_eq ho] at hm
  obtain ⟨rfl, hn⟩ := acquire_position hm
  exact ⟨ho, hok, hn⟩

theorem heldNow_acquired {s : State} (h : RequestInv s) (hp : s.pending = some .acquire) (as : List Answer) :
    heldNow (acquireDone .ok { s with pending := none, answers := as }) = true := by
  obtain ⟨ho, hok, -⟩ := init_of_acquire h hp
  have hb := busy_of_pending h hp
  rw [heldNow_init (s := acquireDone .ok { s with pending := none, answers := as }) hb ho hok]
  exact decide_eq_true (Nat.succ_pos _)

/-- A refused acquisition ends INIT in OFF (R147). -/
theorem heldNow_refused {s : State} (h : RequestInv s) (hp : s.pending = some .acquire) (as : List Answer) :
    heldNow (acquireDone .err { s with pending := none, answers := as }) = heldNow s := by
  obtain ⟨ho, hok, hn⟩ := init_of_acquire h hp
  have hlc : s.lc = .off := by simpa [lifecycleOk] using hok
  rw [heldNow_init (busy_of_pending h hp) ho hok, heldNow_idle rfl]
  simp [acquireDone, hlc, hn]

theorem heldInv_move {s t : State} (h : HeldInv s) (hm : Move s t) : HeldInv t := by
  rw [heldInv_iff] at h ⊢
  obtain ⟨hr, hheld⟩ := h
  refine ⟨requestInv_move hr hm, ?_⟩
  have appended : ∀ es, t.trace = s.trace ++ es → heldNow t = heldAfter (heldNow s) es →
      heldNow t = heldAfter false t.trace := by
    intro es ht he
    rw [ht, heldAfter_append, ← hheld, he]
  cases hm with
  | reset => rfl
  | outside => exact hheld
  | accepted o f hb hl hf =>
    refine appended [] (by rw [hf]; simp) (heldNow_accepted hb hl ?_ ?_ ?_ ?_) <;> rw [hf] <;> rfl
  | unitCalled l b => exact appended [.dc l] rfl rfl
  | chunkCalled => exact hheld
  | waitCalled ms => exact appended [.wait ms] rfl rfl
  | acquireCalled => exact hheld
  | streamBegun _ hb hm =>
    exact appended [.dc .data] rfl (heldNow_goesOn hr hb hm rfl hb rfl rfl (Nat.le_succ _))
  | streamEmpty src _ hb hm =>
    exact appended [] (List.append_nil _).symm (heldNow_goesOn hr hb hm rfl hb rfl rfl (Nat.le_succ _))
  | streamEnded _ hb hm =>
    exact appended [.dc .cmd] rfl (heldNow_goesOn hr hb hm rfl hb rfl rfl (Nat.le_succ _))
  | released _ hb hm => exact appended [.release] rfl (heldNow_released hr hb hm)
  | responded lc _ hb hm =>
    have ht : (finish lc s).trace = s.trace := by cases lc <;> rfl
    rw [heldNow_responded hr hb hm, ht, hheld]
  | acquireAnswered r rest hp =>
    cases r with
    | ok => exact appended [.acquire .ok] rfl (heldNow_acquired hr hp rest)
    | err => exact appended [.acquire .err] rfl (heldNow_refused hr hp rest)
  | unitAnswered l b r rest hp =>
    have hb := busy_of_pending hr hp
    have hm := microOp_of_pending hr hp
    have hl : lifecycleOp (callOp (.unit l b)) = false := by cases l <;> rfl
    refine appended [.xfer l [b] r] (unitDone_trace ..) ?_
    cases r with
    | ok => exact heldNow_goesOn hr hb hm hl hb rfl rfl (Nat.le_succ _)
    | err => exact heldNow_transferFailed hr hb hm hl _ rest
  | chunkAnswered src bs r rest hp =>
    have hb := busy_of_pending hr hp
    have hm := microOp_of_pending hr hp
    refine appended [.xfer .data bs r] (chunkDone_trace ..) ?_
    cases r with
    | ok =>
      rw [chunkDone_ok]
      refine heldNow_goesOn hr hb hm rfl hb rfl rfl ?_
      dsimp only
      split
      · exact Nat.le_succ _
      · exact Nat.le_refl _
    | err => exact heldNow_transferFailed hr hb hm rfl _ rest
  | waitReturned ms n hp =>
    have hb := busy_of_pending hr hp
    have hm := microOp_of_pending hr hp
    exact appended [] (List.append_nil _).symm (heldNow_goesOn hr hb hm rfl hb rfl rfl (Nat.le_succ _))

/-- Settles O43: ACQ changes where INIT's acquisition is answered `ok` and where UNINIT releases, and a response or an
abort leaves LC in agreement with it. -/
theorem stepKeepsTransportHeld : Obligations.StepKeepsTransportHeld :=
  fun _ _ h hs => step_keeps heldInv_move h hs

end Sys2Proof.Proofs
end

section
/-! PROOFS. Stops, progress and frames of a step: a recorded fault (R46, R264), the faults of BUSY and the lifecycle
(R33, R121), no stop from the running-request invariant (R34, R77, R140), and who writes which register (R32, R34, R41 to R43,
R47 to R49, R70). -/

namespace Sys2Proof.Proofs

open Sys2Proof.Machine Sys2Proof.Safety Sys2Proof.Laws

/-! ## The stopped block -/

/-- Outside moves that are no reset keep FAULT. -/
theorem outsideMove_fault {m : HostMove} (s : State) (hm : m ≠ .reset) : (outsideMove m s).fault = s.fault := by
  obtain ⟨p, as, n, h⟩ | ⟨a, b, -, h⟩ := outsideMove_cases s hm <;> rw [h]

theorem outsideMove_host {m : HostMove} (s : State) (hm : m ≠ .reset) : (outsideMove m s).host = s.host := by
  obtain ⟨p, as, n, h⟩ | ⟨a, b, -, h⟩ := outsideMove_cases s hm <;> rw [h]

theorem outsideMove_cfg (m : HostMove) (s : State) : (outsideMove m s).cfg = s.cfg := by
  cases m <;> rfl

/-- A stopped block reaches the first reset among the outside moves, one move a step (R264, R300). -/
theorem stopped_reaches_reset {after : List HostMove} :
    ∀ (before : List HostMove) (d : FaultCode) (s : State), configOk s = true → s.fault = some d →
      s.host = before ++ .reset :: after → (∀ m ∈ before, m ≠ .reset) →
      ∃ t, steps (before.length + 1) s = .next t ∧ t.fault = none ∧ t.host = after := by
  intro before
  induction before with
  | nil =>
    intro d s hc hf hh _
    exact ⟨_, (steps_next (k := 0) (step_reset hc hh)).trans (steps_zero _), rfl, rfl⟩
  | cons m before ih =>
    intro d s hc hf hh hb
    have hm : m ≠ .reset := hb m List.mem_cons_self
    obtain ⟨t, ht, hfault, hhost⟩ := ih d (outsideMove m { s with host := before ++ .reset :: after })
      (by rw [configOk, outsideMove_cfg]; exact hc) ((outsideMove_fault _ hm).trans hf) (outsideMove_host _ hm)
      fun x hx => hb x (List.mem_cons_of_mem m hx)
    exact ⟨t, (steps_next (step_stopped_move hc hf hh)).trans ht, hfault, hhost⟩

/-- A step of a stopped block that is no reset is an outside move (R264). -/
theorem stopped_frame {d : FaultCode} {s t : State} (hf : s.fault = some d) (hn : noReset s) (h : step s = .next t) :
    t = { s with
      port := t.port, mem := t.mem, answers := t.answers, delayReturns := t.delayReturns, host := t.host } := by
  obtain ⟨-, ⟨h0, -⟩ | ⟨p, as, n, rest, rfl⟩ | ⟨a, b, rest, -, rfl⟩ | ⟨h0, -⟩⟩ := step_cases h hn
  · rw [hf] at h0; cases h0
  · rfl
  · rfl
  · rw [hf] at h0; cases h0

/-- Settles O10: `raise` by its two cases, the stopped step by its outside move, and the reset by induction over the
moves before it. -/
theorem faultEntryAndStop : Obligations.FaultEntryAndStop :=
  ⟨fun _ _ => raise_first, fun _ _ _ => raise_again, fun _ _ => step_stopped, fun _ _ _ => stopped_frame,
    fun d s before _ => stopped_reaches_reset before d s, rfl⟩

/-! ## Refused requests -/

/-- The lifecycle condition a request is accepted under fails exactly where R121 says. -/
theorem exec_notReady {i : Instr} {s : State} (hi : i.isWire = false) (hf : s.fault = none) (hb : s.busy = false)
    (h : (i = .init ∧ s.lc ≠ .off) ∨ (i = .uninit ∧ s.lc = .off) ∨
      (i ≠ .init ∧ i ≠ .uninit ∧ i ≠ .display ∧ s.lc ≠ .ready)) :
    exec i s = .next { s with fault := some .notReady } := by
  have refused : ∀ {o c f}, exec i s = accept o c f s → lifecycleOk o s.lc = false →
      exec i s = .next { s with fault := some .notReady } := fun e hl => e.trans (accept_notReady hf hb hl)
  cases i with
  | init => exact refused (exec_init s) (by simpa [lifecycleOk] using h)
  | uninit => exact refused (exec_uninit s) (by rw [show s.lc = .off by simpa using h]; rfl)
  | pixelDraw x y c => exact refused (exec_pixelDraw x y c s) (by simpa [lifecycleOk] using h)
  | rectDraw x y w k c => exact refused (exec_rectDraw x y w k c s) (by simpa [lifecycleOk] using h)
  | bufferDraw x y w k p l => exact refused (exec_bufferDraw x y w k p l s) (by simpa [lifecycleOk] using h)
  | rotationSet o => exact refused (exec_rotationSet o s) (by simpa [lifecycleOk] using h)
  | displayInvert b => exact refused (exec_displayInvert b s) (by simpa [lifecycleOk] using h)
  | display => simp at h
  | _ => cases hi

/-- Settles O20: a busy block faults before it looks at the request, a lifecycle fault comes before the operands'. -/
theorem busyAndLifecycleFaults : Obligations.BusyAndLifecycleFaults := by
  intro i s hi hf
  obtain ⟨o, c, f, e, -⟩ := exec_request i s hi
  exact ⟨fun hb => e.trans (accept_busy hf hb), fun hb h => exec_notReady hi hf hb h⟩

/-! ## Progress -/

/-- From the invariant a chunk never passes the top of host memory (R77). -/
theorem chunkPastTop_false {s : State} {src : Src} (h : RequestInv s) (hb : s.busy = true)
    (hm : microOp s = some (.streamChunk src)) : chunkPastTop src s = false := by
  obtain ⟨o, ho, -, -, -, hd⟩ := requestInv_running h hb
  obtain ⟨hn, hsrc⟩ := streamSource_of_chunk ho hm
  cases src with
  | pat => rfl
  | pix => rfl
  | mem =>
    cases o <;> cases hsrc
    obtain ⟨-, -, -, hend⟩ := hd
    have hend := hend hn.le
    have hsize : chunkSize .mem s ≤ s.rem.toNat := Nat.min_le_left _ _
    exact decide_eq_false (by omega)

theorem runMicroOp_total {m : MicroOp} {s : State} (h : RequestInv s) (hf : s.fault = none) (hb : s.busy = true)
    (hp : s.pending = none) (hm : microOp s = some m) : ∃ t, runMicroOp m s = .next t := by
  cases m with
  | writeCommand b =>
    have hk := decodeWire_of_microOp hm
    cases hd : decodeWire b with
    | error e => rw [hd] at hk; cases hk
    | ok i =>
      obtain ⟨hw, rfl⟩ := decodeWire_ok hd
      refine ⟨writeCommand (cmdCode i) s, ?_⟩
      rw [runMicroOp, runCommandByte, hd]
      exact (exec_wire i s hw).trans (engineStep_ready hf hb hp)
  | streamChunk src =>
    by_cases h0 : s.rem = 0
    · exact ⟨advance s, if_pos h0⟩
    · exact ⟨_, streamChunk_sends h0 (chunkPastTop_false h hb hm)⟩
  | _ => exact ⟨_, rfl⟩

theorem blockStep_total {s : State} (h : RequestInv s) (hf : s.fault = none) : ∃ t, blockStep s = .next t := by
  cases hp : s.pending with
  | some p => exact ⟨settle s, by simp [blockStep, hp]⟩
  | none =>
    cases hb : s.busy with
    | false => exact ⟨s, by simp [blockStep, hp, hb]⟩
    | true =>
      obtain ⟨o, ho, hn, -⟩ := requestInv_running h hb
      have hm : microOp s = some (microProgram o s)[s.seq] := (microOp_eq ho).trans (List.getElem?_eq_getElem hn)
      rw [blockStep_micro hp hb hm]
      exact runMicroOp_total h hf hb hp hm

theorem acceptPort_total (d : Descriptor) {s : State} (hf : s.fault = none) : ∃ t, acceptPort d s = .next t := by
  unfold acceptPort
  split
  · exact ⟨_, rfl⟩
  · split
    · exact ⟨_, rfl⟩
    · next i hi =>
      obtain ⟨o, c, f, e, -⟩ := exec_request i s (decodeRequest_request hi)
      rw [e]
      exact accept_total hf

theorem turn_total {s : State} (h : ∀ rest, ∃ t, blockStep { s with host := rest } = .next t) :
    ∃ t, turn s = .next t := by
  unfold turn
  split
  case h_1 =>
    split
    · exact h s.host  -- a blocking call, the block being busy
    · exact ⟨_, rfl⟩
  case h_6 rest _ => exact h rest  -- a `pass`
  case h_8 => exact h s.host  -- no move left
  all_goals exact ⟨_, rfl⟩

/-- Settles O39: a reset, a presented request and an outside move always answer, and so does the block's own step, whose
micro-operation the invariant provides. -/
theorem requestInvariantNeverSticks : Obligations.RequestInvariantNeverSticks := by
  intro s h hf
  have hc : configOk s = true := h.1
  obtain ⟨rest, hr⟩ | hn := reset_or_noReset s
  · exact ⟨_, step_reset hc hr⟩
  · rw [step_live hc hn]
    cases hp : s.port with
    | some d =>
      rw [liveTurn_port hf hp]
      exact acceptPort_total d hf
    | none =>
      rw [liveTurn_turn hf hp]
      exact turn_total fun rest => blockStep_total (s := { s with host := rest }) h hf

/-! ## What a step writes -/

/-- What no step but a reset touches: the configuration and RST stay, TRACE and the received responses only grow. -/
theorem step_frame {s t : State} (h : step s = .next t) (hn : noReset s) :
    t.cfg = s.cfg ∧ t.rst = s.rst ∧ (∃ es, t.trace = s.trace ++ es) ∧ ∃ rs, t.responses = s.responses ++ rs := by
  obtain ⟨-, ⟨hf, d, -, h⟩ | ⟨p, as, n, rest, rfl⟩ | ⟨a, b, rest, -, rfl⟩ | ⟨-, -, rest, h⟩⟩ := step_cases h hn
  · obtain ⟨hcfg, -, -, hrst, -, htrace, -, -, hresp, -, -⟩ := acceptPort_frame (s := takePort d s) hf h
    exact ⟨hcfg, hrst, ⟨[], by simp [htrace, takePort]⟩, ⟨[], by simp [hresp, takePort]⟩⟩
  · exact ⟨rfl, rfl, ⟨[], by simp⟩, ⟨[], by simp⟩⟩
  · exact ⟨rfl, rfl, ⟨[], by simp⟩, ⟨[], by simp⟩⟩
  · have frame := frame_blockStep h
    exact ⟨frame.cfg, frame.rst, frame.trace, frame.responses⟩

/-- Every step keeps the configuration, a reset too (R47, R300). -/
theorem step_cfg {s t : State} (h : step s = .next t) : t.cfg = s.cfg := by
  obtain ⟨rest, hr⟩ | hn := reset_or_noReset s
  · rw [step_reset_next h hr]
    rfl
  · exact (step_frame h hn).1

/-- Settles O45: the frame of a step, and the configuration, which the capability registers read. -/
theorem traceGrowsConfigurationStays : Obligations.TraceGrowsConfigurationStays := by
  refine ⟨fun _ => ⟨rfl, rfl⟩, fun s t h => ?_⟩
  have hcfg := step_cfg h
  exact ⟨hcfg, congrArg Config.panelW hcfg, congrArg Config.panelH hcfg, fun hn => (step_frame h hn).2.2.1⟩

/-- LC changes in the block's own step only in a request that writes it: INIT or UNINIT (R32). -/
theorem runMicroOp_lc {m : MicroOp} {s t : State} (hm : microOp s = some m) (h : runMicroOp m s = .next t)
    (hl : t.lc ≠ s.lc) : s.op = opCode .init ∨ s.op = opCode .uninit := by
  cases m with
  | writeCommand b =>
    obtain ⟨-, -, -, rfl⟩ := runCommandByte_next h
    exact .inl (callOut_lc _ (driveDc .cmd s) hl)
  | writeData b => cases h; exact .inl (callOut_lc _ (driveDc .data s) hl)
  | streamChunk src =>
    obtain ⟨-, rfl⟩ | ⟨-, -, rfl⟩ := streamChunk_next h
    · exact absurd rfl hl
    · exact .inl (callOut_lc _ s hl)
  | wait ms => cases h; exact .inl (callOut_lc _ (emit (.wait ms) s) hl)
  | acquire => cases h; exact .inl (callOut_lc _ s hl)
  | respond lc =>
    cases h
    obtain ⟨o, ho, hpos⟩ := microOp_program hm
    obtain ⟨rfl, -⟩ | ⟨rfl, -⟩ | ⟨-, -, rfl⟩ := respond_position hpos
    · exact .inl ho
    · exact .inr ho
    · exact absurd rfl hl
  | _ => cases h; exact absurd rfl hl

theorem blockStep_lc {s t : State} (h : blockStep s = .next t) (hl : t.lc ≠ s.lc) :
    (s.op = opCode .init ∨ s.op = opCode .uninit) ∧ (RequestInv s → s.busy = true) := by
  obtain ⟨hp, rfl⟩ | ⟨-, hb, m, hm, h⟩ | ⟨-, -, rfl⟩ := blockStep_cases h
  · obtain ⟨p, hp⟩ := Option.ne_none_iff_exists'.1 hp
    exact ⟨.inl (settle_lc s hl), fun hr => busy_of_pending hr hp⟩
  · exact ⟨runMicroOp_lc hm h hl, fun _ => hb⟩
  · exact absurd rfl hl

/-- Only RECT_DRAW latches PAT (R41, R172). -/
theorem exec_pat {i : Instr} {s t : State} (hi : i.isWire = false) (he : exec i s = .next t) (hp : t.pat ≠ s.pat) :
    ∃ x y w h c, i = .rectDraw x y w h c := by
  have kept : ∀ {o c f}, exec i s = accept o c f s → (f (beginRequest o s)).pat = s.pat → False := by
    intro o c f e hpat
    obtain ⟨-, ⟨d, rfl⟩ | ⟨-, -, -, rfl⟩⟩ := accept_next (e.symm.trans he)
    · exact hp rfl
    · exact hp hpat
  cases i with
  | rectDraw x y w h c => exact ⟨x, y, w, h, c, rfl⟩
  | init => exact (kept (exec_init s) rfl).elim
  | uninit => exact (kept (exec_uninit s) rfl).elim
  | pixelDraw x y c => exact (kept (exec_pixelDraw x y c s) rfl).elim
  | bufferDraw x y w h p l => exact (kept (exec_bufferDraw x y w h p l s) rfl).elim
  | rotationSet o => exact (kept (exec_rotationSet o s) rfl).elim
  | displayInvert b => exact (kept (exec_displayInvert b s) rfl).elim
  | display => exact (kept (exec_display s) rfl).elim
  | _ => cases hi

/-- Taking a presented descriptor writes PAT only for a RECT_DRAW. -/
theorem acceptPort_pat {d : Descriptor} {s t : State} (hf : s.fault = none) (h : acceptPort d s = .next t)
    (hp : t.pat ≠ s.pat) : ∃ x y w h c, decodeRequest d = .ok (.rectDraw x y w h c) := by
  obtain ⟨c, rfl⟩ | ⟨-, i, hd, he⟩ := acceptPort_next hf h
  · exact absurd rfl hp
  · obtain ⟨x, y, w, k, c, rfl⟩ := exec_pat (decodeRequest_request hd) he hp
    exact ⟨x, y, w, k, c, hd⟩

/-- Settles O46: each register's writer by the case of the step it is written in. -/
theorem writersOfSharedState : Obligations.WritersOfSharedState := by
  refine ⟨fun s t hs hn => ?_, fun s t rest hs hr => ?_⟩
  · obtain ⟨-, hrst, -, hresp⟩ := step_frame hs hn
    obtain ⟨-, ⟨hf, d, hport, h⟩ | ⟨p, as, n, rest, rfl⟩ | ⟨a, b, rest, hh, rfl⟩ | ⟨-, -, rest, h⟩⟩ := step_cases hs hn
    · obtain ⟨-, hlc, -, -, -, -, -, -, -, hreq, hmem⟩ := acceptPort_frame (s := takePort d s) hf h
      refine ⟨absurd hlc, fun hpat => ?_, absurd hmem, hrst, hresp, fun _ => ⟨d, hport, hreq⟩⟩
      obtain ⟨x, y, w, k, c, hd⟩ := acceptPort_pat (s := takePort d s) hf h hpat
      exact ⟨d, x, y, w, k, c, hport, hd⟩
    · exact ⟨absurd rfl, absurd rfl, absurd rfl, hrst, hresp, absurd rfl⟩
    · exact ⟨absurd rfl, absurd rfl, fun _ => ⟨a, b, rest, hh⟩, hrst, hresp, absurd rfl⟩
    · have frame := frame_blockStep h
      exact ⟨blockStep_lc (s := { s with host := rest }) h, absurd frame.pat, absurd frame.mem, hrst, hresp,
        absurd frame.requests⟩
  · rw [step_reset_next hs hr]
    exact ⟨rfl, rfl, rfl, rfl, rfl, rfl⟩

/-- A micro-operation changes DC only where it drives the line (R149). -/
theorem runMicroOp_dc {m : MicroOp} {s t : State} (h : runMicroOp m s = .next t) (hdc : t.dc ≠ s.dc) :
    (∃ b, m = .writeCommand b) ∨ (∃ b, m = .writeData b) ∨ m = .streamBegin ∨ m = .streamEnd := by
  cases m with
  | writeCommand b => exact .inl ⟨b, rfl⟩
  | writeData b => exact .inr (.inl ⟨b, rfl⟩)
  | streamBegin => exact .inr (.inr (.inl rfl))
  | streamEnd => exact .inr (.inr (.inr rfl))
  | streamChunk src =>
    obtain ⟨-, rfl⟩ | ⟨-, -, rfl⟩ := streamChunk_next h
    · exact absurd rfl hdc
    · exact absurd (callOut_dc _ s) hdc
  | wait ms => cases h; exact absurd (callOut_dc _ _) hdc
  | acquire => cases h; exact absurd (callOut_dc _ s) hdc
  | release => cases h; exact absurd rfl hdc
  | respond lc => cases h; cases lc <;> exact absurd rfl hdc

/-- Settles O47: acceptance, an outside move and an answer keep DC, and so do the five other micro-operations. -/
theorem dcChangesOnlyAtFourMicroOperations : Obligations.DcChangesOnlyAtFourMicroOperations := by
  intro s t hs hn hdc
  obtain ⟨-, ⟨hf, d, -, h⟩ | ⟨p, as, n, rest, rfl⟩ | ⟨a, b, rest, -, rfl⟩ | ⟨-, -, rest, h⟩⟩ := step_cases hs hn
  · obtain ⟨-, -, hkept, -⟩ := acceptPort_frame (s := takePort d s) hf h
    exact absurd hkept hdc
  · exact absurd rfl hdc
  · exact absurd rfl hdc
  · obtain ⟨-, rfl⟩ | ⟨hp, hb, m, hm, h⟩ | ⟨-, -, rfl⟩ := blockStep_cases h
    · exact absurd (settle_dc _) hdc
    · have hm' : microOp s = some m := hm
      rw [hm']
      exact ⟨hp, hb, by simpa using runMicroOp_dc h hdc⟩
    · exact absurd rfl hdc

/-- A micro-operation advances SEQ by at most 1 (R34). -/
theorem runMicroOp_seq {m : MicroOp} {s t : State} (h : runMicroOp m s = .next t) :
    t.seq = s.seq ∨ t.seq = s.seq + 1 := by
  cases m with
  | writeCommand b =>
    obtain ⟨-, -, -, rfl⟩ := runCommandByte_next h
    exact callOut_seq _ (driveDc .cmd s)
  | writeData b => cases h; exact callOut_seq _ (driveDc .data s)
  | streamChunk src =>
    obtain ⟨-, rfl⟩ | ⟨-, -, rfl⟩ := streamChunk_next h
    · exact .inr rfl
    · exact callOut_seq _ s
  | wait ms => cases h; exact callOut_seq _ (emit (.wait ms) s)
  | acquire => cases h; exact callOut_seq _ s
  | respond lc => cases h; cases lc <;> exact .inl rfl
  | _ => cases h; exact .inr rfl

/-- Settles O48: to a busy block a presented request is only a fault, and an answer or a micro-operation advances SEQ by
at most 1. -/
theorem seqAdvancesByOne : Obligations.SeqAdvancesByOne := by
  intro s t hs hn hbusy
  obtain ⟨-, ⟨hf, d, -, h⟩ | ⟨p, as, n, rest, rfl⟩ | ⟨a, b, rest, -, rfl⟩ | ⟨-, -, rest, h⟩⟩ := step_cases hs hn
  · rw [acceptPort_busy (s := takePort d s) hf hbusy h]
    exact .inl rfl
  · exact .inl rfl
  · exact .inl rfl
  · obtain ⟨-, rfl⟩ | ⟨-, -, m, -, h⟩ | ⟨-, -, rfl⟩ := blockStep_cases h
    · exact settle_seq _
    · exact runMicroOp_seq (s := { s with host := rest }) h
    · exact .inl rfl

end Sys2Proof.Proofs
end

section
/-! PROOFS. The observer of a drawing request (R51): a complete draw leaves the panel in step, and a stream of another
length or a failed transfer sets DESYNC (R52, R163, R176, R266). -/

namespace Sys2Proof.Proofs

open Sys2Proof.Machine Sys2Proof.Safety Sys2Proof.Laws

/-! ## A window-set and its stream -/

/-- The observer at the beginning of the stream of a window-set, every answer `ok`: armed, in step, nothing received. -/
def armedWindow (w : Window) : Observer :=
  { col := some (w.x0, w.x1), row := some (w.y0, w.y1), colFresh := false, rowFresh := false, params := none
    armed := true, expect := windowBytes w, got := 0, desync := false }

/-- A complete window-set forgets everything before it (R51, R163). -/
theorem foldl_windowEvents (o : Observer) (x0 y0 x1 y1 : Half) :
    (windowEvents x0 y0 x1 y1).foldl Observer.event o = armedWindow ⟨x0, y0, x1, y1⟩ := by
  rw [windowEvents, List.foldl_append, List.foldl_append, foldl_caset, foldl_raset]
  simp [commandEvents, command_ramwr, Observer.arm, Observer.endStream, Observer.win, armedWindow]

theorem after_window_chunks (t : List Event) (x0 y0 x1 y1 : Half) (chunks : List (List Byte)) :
    Observer.after (t ++ windowEvents x0 y0 x1 y1 ++ [.dc .data] ++ chunks.map (fun bs => .xfer .data bs .ok)) =
      { armedWindow ⟨x0, y0, x1, y1⟩ with got := chunks.flatten.length } := by
  rw [after_append, after_append, after_append, foldl_windowEvents, List.foldl_cons, List.foldl_nil, event_dc,
    foldl_chunks _ _ rfl]
  simp [armedWindow]

/-- The observer of a window-set and its whole stream: DESYNC is set exactly where the stream has another length. -/
theorem observe_draw (t : List Event) (x0 y0 x1 y1 : Half) (chunks : List (List Byte)) :
    observe (t ++ windowEvents x0 y0 x1 y1 ++ streamEvents chunks) =
      { armedWindow ⟨x0, y0, x1, y1⟩ with
        got := chunks.flatten.length, desync := chunks.flatten.length != windowBytes ⟨x0, y0, x1, y1⟩ } := by
  have h : Observer.after (t ++ windowEvents x0 y0 x1 y1 ++ streamEvents chunks) =
      { armedWindow ⟨x0, y0, x1, y1⟩ with got := chunks.flatten.length } := by
    rw [streamEvents, ← List.append_assoc, ← List.append_assoc, after_append, after_window_chunks]
    rfl
  rw [observe, h]
  rfl

/-- Settles O59: the stream's length is the window's, which is what the observer expects. -/
theorem completeDrawLeavesPanelInStep : Obligations.CompleteDrawLeavesPanelInStep := by
  intro t x0 y0 x1 y1 chunks _ _ hlen
  have hgot : chunks.flatten.length = windowBytes ⟨x0, y0, x1, y1⟩ := hlen
  refine ⟨_, observe_draw t x0 y0 x1 y1 chunks, rfl, rfl, hgot, rfl, ?_⟩
  simp [hgot]

/-! ## Failed transfers -/

/-- DESYNC of the last event stays where the trace ends. -/
theorem observe_desync {t : List Event} (h : (Observer.after t).desync = true) : (observe t).desync = true := by
  simp [observe, h]

/-- A data transfer that fails inside a stream or a parameter list sets DESYNC. -/
theorem data_err_desync {o : Observer} (h : o.armed = true ∨ o.params.isSome = true) (bs : List Byte) :
    (o.data bs .err).desync = true := by
  have inside : (o.armed || o.params.isSome) = true := by simpa using h
  rw [Observer.data, if_pos inside]
  rfl

/-- A CASET, RASET or RAMWR that fails sets DESYNC. -/
theorem command_err_desync {o : Observer} {cmd : Byte} (h : cmd = 0x2A ∨ cmd = 0x2B ∨ cmd = 0x2C) :
    (o.command cmd .err).desync = true := by
  obtain rfl | rfl | rfl := h <;> rfl

/-- A delivered CASET or RASET begins a parameter list (R109). -/
theorem foldl_command_params (o : Observer) {cmd : Byte} (h : cmd = 0x2A ∨ cmd = 0x2B) :
    ((commandEvents cmd).foldl Observer.event o).armed = false ∧
      ∃ a, ((commandEvents cmd).foldl Observer.event o).params = some (a, []) := by
  obtain rfl | rfl := h
  · exact ⟨rfl, _, rfl⟩
  · exact ⟨rfl, _, rfl⟩

/-- A parameter list of fewer than four bytes goes on. -/
theorem address_unfinished {o : Observer} (a : Axis) {bs : List Byte} (h : bs.length < 4) :
    o.address a bs = { o with params := some (a, bs) } := by
  unfold Observer.address
  split
  · simp at h
  · rfl

theorem foldl_dataEvents_unfinished (sent : List Byte) :
    ∀ (o : Observer) (a : Axis) (sofar : List Byte), o.armed = false → o.params = some (a, sofar) →
      sofar.length + sent.length < 4 →
      ((sent.flatMap dataEvents).foldl Observer.event o).params = some (a, sofar ++ sent) := by
  induction sent with
  | nil => intro o a sofar _ hp _; simpa using hp
  | cons b sent ih =>
    intro o a sofar harm hp hlen
    have hlen' : (sofar ++ [b]).length + sent.length < 4 := by
      simp only [List.length_append, List.length_cons, List.length_nil] at hlen ⊢
      omega
    have hb : o.data [b] .ok = { o with params := some (a, sofar ++ [b]) } := by
      rw [Observer.data, if_neg (by simp [harm]), hp]
      exact address_unfinished a (bs := sofar ++ [b]) (by omega)
    have hunit : (dataEvents b).foldl Observer.event o = { o with params := some (a, sofar ++ [b]) } := by
      rw [dataEvents, List.foldl_cons, List.foldl_cons, List.foldl_nil, event_dc, event_data, hb]
    rw [List.flatMap_cons, List.foldl_append, hunit]
    refine (ih { o with params := some (a, sofar ++ [b]) } a (sofar ++ [b]) harm rfl hlen').trans ?_
    rw [List.append_assoc, List.singleton_append]

/-- Settles O60: a wrong length by the observer of a whole draw, a failure by the event that fails. -/
theorem brokenDrawDesynchronises : Obligations.BrokenDrawDesynchronises := by
  refine ⟨fun t x0 y0 x1 y1 chunks _ _ hlen => ?_, fun t x0 y0 x1 y1 chunks bs => ?_, fun t cmd hcmd => ?_,
    fun t cmd sent b hcmd hlen => ?_⟩
  · rw [observe_draw]
    exact bne_iff_ne.2 hlen
  · apply observe_desync
    rw [after_append, after_window_chunks, List.foldl_cons, List.foldl_nil, event_data]
    exact data_err_desync (.inl rfl) bs
  · apply observe_desync
    rw [after_append, List.foldl_cons, List.foldl_cons, List.foldl_nil, event_dc, event_command]
    exact command_err_desync hcmd
  · apply observe_desync
    obtain ⟨harm, a, hp⟩ := foldl_command_params (Observer.after t) hcmd
    have hparams := foldl_dataEvents_unfinished sent _ a [] harm hp (by simpa using hlen)
    rw [after_append, after_append, after_append, List.foldl_cons, List.foldl_cons, List.foldl_nil, event_dc,
      event_data]
    exact data_err_desync (.inr (by rw [hparams]; rfl)) [b]

end Sys2Proof.Proofs
end

section
/-! PROOFS. Host memory through a step: the only write is the outside world's (R70, R82), it keeps the canonical form, and
it is read back at its address and nowhere else (R72). -/

namespace Sys2Proof.Proofs

open Sys2Proof.Machine Sys2Proof.Safety Sys2Proof.Laws

/-- What a step leaves in host memory, a reset too: it is as before, or one byte is written by the host (R70, R82). -/
theorem step_mem {s t : State} (h : step s = .next t) :
    t.mem = s.mem ∨ ∃ a b rest, s.host = .poke a b :: rest ∧ t.mem = Memory.write s.mem a.toNat b := by
  obtain ⟨rest, hr⟩ | hn := reset_or_noReset s
  · rw [step_reset_next h hr]
    exact .inl rfl
  · obtain ⟨-, ⟨hf, d, -, h⟩ | ⟨p, as, n, rest, rfl⟩ | ⟨a, b, rest, hh, rfl⟩ | ⟨-, -, rest, h⟩⟩ := step_cases h hn
    · obtain ⟨-, -, -, -, -, -, -, -, -, -, hmem⟩ := acceptPort_frame (s := takePort d s) hf h
      exact .inl hmem
    · exact .inl rfl
    · exact .inr ⟨a, b, rest, hh, rfl⟩
    · exact .inl (frame_blockStep h).mem

/-- Settles O36: a step writes host memory at most once, below 2^32, and a write keeps the form. -/
theorem stepKeepsMemoryCanonical : Obligations.StepKeepsMemoryCanonical := by
  intro s t hw h
  obtain hmem | ⟨a, b, rest, -, hmem⟩ := step_mem h <;> rw [hmem]
  · exact hw
  · exact wf_write a.isLt hw

/-- With nothing on the port a host write that is next is the step of a running block (R30, R82). -/
theorem step_poke {s : State} {a : Word} {b : Byte} {rest : List HostMove} (hc : configOk s = true)
    (hf : s.fault = none) (hp : s.port = none) (hh : s.host = .poke a b :: rest) :
    step s = .next { s with mem := Memory.write s.mem a.toNat b, host := rest } := by
  rw [step_live hc (by simp [noReset, hh]), liveTurn_turn hf hp, turn, hh]
  rfl

/-- Settles O37: the step is the write, and a written memory reads as `read_write` says. -/
theorem hostWriteReadsBack : Obligations.HostWriteReadsBack := by
  intro s a b rest hc hf hp hh hw
  have hread := read_write (addr := a.toNat) (b := b) hw
  exact ⟨_, step_poke hc hf hp hh, (hread a.toNat).trans (if_pos rfl), fun c hne => (hread c).trans (if_neg hne)⟩

end Sys2Proof.Proofs
end

section
/-! PROOFS. Encoding (R100 to R108): what a descriptor decodes to, by its OP and its fields; the reserved space; the
command bytes of the micro-programs and what follows them (R109). -/

namespace Sys2Proof.Proofs

open Sys2Proof.Machine Sys2Proof.Safety Sys2Proof.Laws

/-! ## OP values -/

theorem opOfCode_eq_some {c : BitVec 4} {o : Op} : opOfCode c = some o ↔ c = opCode o := by
  constructor
  · cases o <;> revert c <;> decide
  · rintro rfl
    exact opOfCode_opCode o

/-- The defined OP values are 0x1 to 0x8 (R102). -/
theorem opOfCode_isSome_iff (c : BitVec 4) : (opOfCode c).isSome = true ↔ 1 ≤ c.toNat ∧ c.toNat ≤ 8 := by
  revert c
  decide

/-! ## Decoding by OP -/

/-- The request of an OP value with its operands read from the fields R101 lists for it. -/
def requestOf : Op → Descriptor → Instr
  | .init, _ => .init
  | .uninit, _ => .uninit
  | .pixelDraw, d => .pixelDraw d.x d.y d.color
  | .rectDraw, d => .rectDraw d.x d.y d.w d.h d.color
  | .bufferDraw, d => .bufferDraw d.x d.y d.w d.h d.w3 d.w4
  | .rotationSet, d => .rotationSet d.orient
  | .displayInvert, d => .displayInvert d.inv
  | .display, _ => .display

/-- A nonzero reserved bit is an error (R104). -/
theorem decodeRequest_reservedBits {d : Descriptor} (h : d.rsv0 ≠ 0 ∨ d.rsv1 ≠ 0) :
    decodeRequest d = .error .reservedBits := if_pos h

/-- With the reserved bits 0 a defined OP decodes to its request (R102). -/
theorem decodeRequest_opCode {d : Descriptor} {o : Op} (h0 : d.rsv0 = 0) (h1 : d.rsv1 = 0) (ho : d.op = opCode o) :
    decodeRequest d = .ok (requestOf o d) := by
  unfold decodeRequest
  rw [if_neg (by simp [h0, h1]), ho]
  cases o <;> rfl

/-- With the reserved bits 0 an undefined OP is an error (R102, R104). -/
theorem decodeRequest_reservedOp {d : Descriptor} (h0 : d.rsv0 = 0) (h1 : d.rsv1 = 0) (ho : opOfCode d.op = none) :
    decodeRequest d = .error (.reservedOp d.op) := by
  unfold opOfCode at ho
  unfold decodeRequest
  rw [if_neg (by simp [h0, h1])]
  split <;> simp_all

/-! ## Round trip -/

section Fields

variable (c : Half) (v : Bool) (r : BitVec 2) (p : BitVec 4) (h l : Half) (w0 w1 w2 w3 w4 : Word)

@[simp] theorem color_word0 : Descriptor.color ⟨word0 c v r p, w1, w2, w3, w4⟩ = c := bits_color c v r p
@[simp] theorem inv_word0 : Descriptor.inv ⟨word0 c v r p, w1, w2, w3, w4⟩ = v := bit_inv c v r p
@[simp] theorem orient_word0 : Descriptor.orient ⟨word0 c v r p, w1, w2, w3, w4⟩ = r := bits_orient c v r p
@[simp] theorem x_word2 : Descriptor.x ⟨w0, word2 h l, w2, w3, w4⟩ = l := bits_low h l
@[simp] theorem y_word2 : Descriptor.y ⟨w0, word2 h l, w2, w3, w4⟩ = h := bits_high h l
@[simp] theorem w_word2 : Descriptor.w ⟨w0, w1, word2 h l, w3, w4⟩ = l := bits_low h l
@[simp] theorem h_word2 : Descriptor.h ⟨w0, w1, word2 h l, w3, w4⟩ = h := bits_high h l

/-- A descriptor whose w0 is built from a request's OP decodes to that request. -/
theorem decodeRequest_word0 (o : Op) :
    decodeRequest ⟨word0 c v r (opCode o), w1, w2, w3, w4⟩ =
      .ok (requestOf o ⟨word0 c v r (opCode o), w1, w2, w3, w4⟩) :=
  decodeRequest_opCode (bits_rsv0 c v r _) (bits_rsv1 c v r _) (bits_op c v r _)

end Fields

/-- Settles O1: a request's descriptor is built from its OP and the fields its decoder reads, and a wire command's code
is its byte. -/
theorem decodeEncodeRoundTrip : Obligations.DecodeEncodeRoundTrip := by
  intro i
  have request : ∀ (o : Op) (c v r w1 w2 w3 w4),
      requestOf o ⟨word0 c v r (opCode o), w1, w2, w3, w4⟩ = i →
      decode (.request ⟨word0 c v r (opCode o), w1, w2, w3, w4⟩) = .ok i := by
    rintro o c v r w1 w2 w3 w4 rfl
    exact decodeRequest_word0 c v r w1 w2 w3 w4 o
  cases hw : i.isWire with
  | true =>
    rw [encode_wire i hw]
    exact decodeWire_cmdCode i hw
  | false =>
    cases i with
    | init => exact request .init _ _ _ _ _ _ _ rfl
    | uninit => exact request .uninit _ _ _ _ _ _ _ rfl
    | pixelDraw x y c => exact request .pixelDraw _ _ _ _ _ _ _ (by simp [requestOf])
    | rectDraw x y w h c => exact request .rectDraw _ _ _ _ _ _ _ (by simp [requestOf])
    | bufferDraw x y w h p l => exact request .bufferDraw _ _ _ _ _ _ _ (by simp [requestOf])
    | rotationSet o => exact request .rotationSet _ _ _ _ _ _ _ (by simp [requestOf])
    | displayInvert b => exact request .displayInvert _ _ _ _ _ _ _ (by simp [requestOf])
    | display => exact request .display _ _ _ _ _ _ _ rfl
    | _ => cases hw

/-! ## The reserved space -/

/-- A legal descriptor has its reserved bits 0 and the OP of a request (R102, R104). -/
theorem wf_iff_opCode (d : Descriptor) : d.wf = true ↔ d.rsv0 = 0 ∧ d.rsv1 = 0 ∧ ∃ o, d.op = opCode o := by
  rw [wf_iff, ← opOfCode_isSome_iff, Option.isSome_iff_exists]
  simp only [opOfCode_eq_some]

/-- What decodes, and what it decodes to. -/
theorem decodeRequest_ok_iff {d : Descriptor} {i : Instr} :
    decodeRequest d = .ok i ↔ d.rsv0 = 0 ∧ d.rsv1 = 0 ∧ ∃ o, d.op = opCode o ∧ i = requestOf o d := by
  constructor
  · intro h
    by_cases hr : d.rsv0 ≠ 0 ∨ d.rsv1 ≠ 0
    · rw [decodeRequest_reservedBits hr] at h; cases h
    · obtain ⟨h0, h1⟩ : d.rsv0 = 0 ∧ d.rsv1 = 0 := by simpa using hr
      cases ho : opOfCode d.op with
      | none => rw [decodeRequest_reservedOp h0 h1 ho] at h; cases h
      | some o =>
        rw [opOfCode_eq_some] at ho
        rw [decodeRequest_opCode h0 h1 ho] at h
        cases h
        exact ⟨h0, h1, o, ho, rfl⟩
  · rintro ⟨h0, h1, o, ho, rfl⟩
    exact decodeRequest_opCode h0 h1 ho

/-- Settles O2: both sides say that the reserved bits are 0 and OP is a request's. -/
theorem decodesExactlyLegalDescriptors : Obligations.DecodesExactlyLegalDescriptors := by
  intro d
  simp only [wf_iff_opCode, decodeRequest_ok_iff]
  constructor
  · rintro ⟨-, h0, h1, o, ho, -⟩
    exact ⟨h0, h1, o, ho⟩
  · rintro ⟨h0, h1, o, ho⟩
    exact ⟨_, h0, h1, o, ho, rfl⟩

/-- A reserved descriptor presented to a block that is not busy is F_ILLEGAL_REQUEST (R104, R121). -/
theorem acceptPort_illegal {d : Descriptor} {s : State} (hd : d.wf = false) (hf : s.fault = none)
    (hb : s.busy = false) : acceptPort d s = .next { s with fault := some .illegalRequest } := by
  rw [← raise_first hf, acceptPort, hb]
  cases he : decodeRequest d with
  | error e => rfl
  | ok i => rw [(decodesExactlyLegalDescriptors d).1 ⟨i, he⟩] at hd; cases hd

/-- Settles O3: the step takes the descriptor off the port, and acceptance refuses it. -/
theorem reservedDescriptorFaults : Obligations.ReservedDescriptorFaults := by
  intro d s hd hc hf hb hp hn
  rw [step_live hc hn, liveTurn_port hf hp]
  exact acceptPort_illegal (s := takePort d s) hd hf hb

/-- Settles O4: with equal reserved fields and OP both are errors alike, or both decode by the one OP, whose request is
made of fields on which they agree. -/
theorem unusedFieldsIgnored : Obligations.UnusedFieldsIgnored := by
  intro d e hop hr0 hr1 hcolor hw1 hw2 hw34 horient hinv
  by_cases hr : d.rsv0 ≠ 0 ∨ d.rsv1 ≠ 0
  · rw [decodeRequest_reservedBits hr, decodeRequest_reservedBits (by rwa [← hr0, ← hr1])]
  · obtain ⟨h0, h1⟩ : d.rsv0 = 0 ∧ d.rsv1 = 0 := by simpa using hr
    cases ho : opOfCode d.op with
    | none =>
      rw [decodeRequest_reservedOp h0 h1 ho,
        decodeRequest_reservedOp (hr0 ▸ h0) (hr1 ▸ h1) (hop ▸ ho), hop]
    | some o =>
      rw [opOfCode_eq_some] at ho
      rw [decodeRequest_opCode h0 h1 ho, decodeRequest_opCode (hr0 ▸ h0) (hr1 ▸ h1) (hop ▸ ho)]
      congr 1
      cases o with
      | init => rfl
      | uninit => rfl
      | pixelDraw =>
        simp only [requestOf, Descriptor.x, Descriptor.y, hcolor (.inl ho), hw1 (.inl ho)]
      | rectDraw =>
        simp only [requestOf, Descriptor.x, Descriptor.y, Descriptor.w, Descriptor.h, hcolor (.inr ho),
          hw1 (.inr (.inl ho)), hw2 (.inl ho)]
      | bufferDraw =>
        obtain ⟨h3, h4⟩ := hw34 ho
        simp only [requestOf, Descriptor.x, Descriptor.y, Descriptor.w, Descriptor.h, hw1 (.inr (.inr ho)),
          hw2 (.inr ho), h3, h4]
      | rotationSet => rw [requestOf, requestOf, horient ho]
      | displayInvert => rw [requestOf, requestOf, hinv ho]
      | display => rfl

/-- Settles O7: each word by evaluation. -/
theorem specWordsDecode : Obligations.SpecWordsDecode :=
  ⟨rfl, rfl, rfl, rfl, rfl, rfl, rfl, rfl, rfl, rfl⟩

/-! ## The command bytes of the micro-programs -/

/-- Settles O5: the micro-programs send known bytes, and a known byte is the code of the command it decodes to. -/
theorem microProgramsSendOnlyCommands : Obligations.MicroProgramsSendOnlyCommands := by
  intro o s b hb
  have known : (decodeWire b).isOk = true := List.all_eq_true.1 (microProgram_commandKnown o s) _ hb
  cases hd : decodeWire b with
  | error e => rw [hd] at known; cases known
  | ok i =>
    obtain ⟨hw, rfl⟩ := decodeWire_ok hd
    exact ⟨i, hw, encode_wire i hw, rfl⟩

/-- A command with parameters makes exactly their number due (R109). -/
theorem paramsFollow_command {i : Instr} {n : Nat} (hi : i.isWire = true) (hn : wireParams i = some n)
    (t : List MicroOp) : paramsFollow 0 (.writeCommand (cmdCode i) :: t) = paramsFollow n t := by
  simp [paramsFollow, decodeWire_cmdCode i hi, hn]

/-- The four bytes of an address parameter are what CASET and RASET make due (R109, R110). -/
theorem paramsFollow_address (a b : Half) (t : List MicroOp) :
    paramsFollow 4 (addressParams a b ++ t) = paramsFollow 0 t := rfl

/-- A window-set: each address command has its four bytes, and RAMWR has the stream after it (R109, R160). -/
theorem paramsFollow_setWindow (x0 y0 x1 y1 : Half) (t : List MicroOp) :
    paramsFollow 0 (setWindow x0 y0 x1 y1 ++ .streamBegin :: t) = paramsFollow 0 t := by
  simp only [setWindow, List.append_assoc, List.cons_append, List.nil_append]
  rw [paramsFollow_command (i := .caset) rfl rfl, paramsFollow_address, paramsFollow_command (i := .raset) rfl rfl,
    paramsFollow_address]
  rfl

theorem paramsFollow_drawProgram (src : Src) (s : State) : paramsFollow 0 (drawProgram src s) = true :=
  paramsFollow_setWindow _ _ _ _ _

/-- Settles O6: a drawing request's program is a window-set and its stream; the other programs are fixed lists up to
their data bytes, whose values do not matter here. -/
theorem parametersFollowCommands : Obligations.ParametersFollowCommands := by
  refine ⟨fun o s => ?_, fun cfg => by simp [initProgram, addressParams, cmdCode]⟩
  cases o with
  | init => rfl
  | uninit => rfl
  | pixelDraw => exact paramsFollow_drawProgram .pix s
  | rectDraw => exact paramsFollow_drawProgram .pat s
  | bufferDraw => exact paramsFollow_drawProgram .mem s
  | rotationSet => exact paramsFollow_command (i := .madctl) rfl rfl _
  | displayInvert =>
    cases hi : s.inv <;> rw [microProgram, hi]
    · exact paramsFollow_command (i := .invoff) rfl rfl _
    · exact paramsFollow_command (i := .invon) rfl rfl _
  | display => rfl

end Sys2Proof.Proofs
end

section
/-! PROOFS. Acceptance of the eight requests (R121): the step that takes a presented descriptor, what each request
latches in its lifecycle state (R36 to R41, R170 to R177), and what acceptance leaves alone (R264). -/

namespace Sys2Proof.Proofs

open Sys2Proof.Machine Sys2Proof.Safety Sys2Proof.Laws

/-! ## The step at the request port -/

/-- A descriptor that decodes is taken as its request's meaning; while BUSY that too is F_REENTRANT (R33, R121). -/
theorem acceptPort_decoded {d : Descriptor} {i : Instr} {s : State} (hf : s.fault = none)
    (hd : decodeRequest d = .ok i) : acceptPort d s = exec i s := by
  cases hb : s.busy with
  | true =>
    obtain ⟨o, c, f, e, -⟩ := exec_request i s (decodeRequest_request hd)
    rw [acceptPort, hb, e, accept_busy hf hb, ← raise_first hf]
    rfl
  | false =>
    rw [acceptPort, hb, hd]
    rfl

/-- Settles O13: a live step with a descriptor on the port is its acceptance. -/
theorem stepRunsPresentedRequest : Obligations.StepRunsPresentedRequest := by
  intro d i s hc hf hp hn hd
  rw [step_live hc hn, liveTurn_port hf hp]
  exact acceptPort_decoded (s := takePort d s) hf hd

/-! ## What each request latches -/

/-- Settles O15: each is begun in its lifecycle states and latches nothing. -/
theorem initUninitDisplayAccepted : Obligations.InitUninitDisplayAccepted := by
  intro s hf hb
  refine ⟨fun hl => ?_, fun hl => ?_, ?_⟩
  · exact (exec_init s).trans (accept_begins hf hb (by rw [hl]; rfl))
  · exact (exec_uninit s).trans (accept_begins hf hb (by rcases hl with hl | hl <;> rw [hl] <;> rfl))
  · exact (exec_display s).trans (accept_begins hf hb rfl)

/-- Settles O16: READY meets both lifecycle conditions, and there is no operand check. -/
theorem rotationAndInvertAccepted : Obligations.RotationAndInvertAccepted := by
  intro o b s hf hb hl
  constructor
  · exact (exec_rotationSet o s).trans (accept_begins hf hb (by rw [hl]; rfl))
  · exact (exec_displayInvert b s).trans (accept_begins hf hb (by rw [hl]; rfl))

/-- Settles O17: a pixel's window needs no check (R177). -/
theorem pixelDrawAccepted : Obligations.PixelDrawAccepted := by
  intro x y c s hf hb hl
  exact (exec_pixelDraw x y c s).trans (accept_begins hf hb (by rw [hl]; rfl))

/-- Settles O18: the window and the byte count pass their checks, and what is latched is exact. -/
theorem rectDrawAccepted : Obligations.RectDrawAccepted := by
  intro x y w h c s hf hb hl hw hh hx hy ht
  have passes : checkRect x y w h = none := checkRect_none (checkWindow_none.2 ⟨hw, hh, hx, hy⟩) ht
  refine ⟨BitVec.ofNat 16 (corner x w), BitVec.ofNat 16 (corner y h), fillPattern c,
    BitVec.ofNat 32 (totalBytes w h), ?_, corner_toNat hw hx, corner_toNat hh hy, ?_, fillPattern_toList c⟩
  · rw [exec_rectDraw, passes]
    exact accept_begins hf hb (by rw [hl]; rfl)
  · rw [BitVec.toNat_ofNat, totalBytes]
    exact Nat.mod_eq_of_lt ht

/-- Settles O19: the window, the length and the buffer's end pass their checks, and the latched corners are exact. -/
theorem bufferDrawAccepted : Obligations.BufferDrawAccepted := by
  intro x y w h p l s hf hb hl hw hh hx hy hend hlen
  have passes : checkBuffer s.cfg x y w h p l = none :=
    checkBuffer_none (checkWindow_none.2 ⟨hw, hh, hx, hy⟩) hlen hend
  refine ⟨BitVec.ofNat 16 (corner x w), BitVec.ofNat 16 (corner y h), ?_, corner_toNat hw hx, corner_toNat hh hy⟩
  rw [exec_bufferDraw, passes]
  exact accept_begins hf hb (by rw [hl]; rfl)

/-! ## The frame -/

/-- What an accepted request latches (R121). -/
def requestLatch : Instr → State → State
  | .pixelDraw x y c => latchPixel x y c
  | .rectDraw x y w h c => latchRect x y w h c
  | .bufferDraw x y w h p l => latchBuffer x y w h p l
  | .rotationSet o => latchOrient o
  | .displayInvert b => latchInv b
  | _ => id

/-- A request's meaning is acceptance with its latch. -/
theorem exec_requestLatch (i : Instr) (s : State) (hi : i.isWire = false) :
    ∃ o c, exec i s = accept o c (requestLatch i) s := by
  cases i with
  | init => exact ⟨_, _, exec_init s⟩
  | uninit => exact ⟨_, _, exec_uninit s⟩
  | pixelDraw x y c => exact ⟨_, _, exec_pixelDraw x y c s⟩
  | rectDraw x y w h c => exact ⟨_, _, exec_rectDraw x y w h c s⟩
  | bufferDraw x y w h p l => exact ⟨_, _, exec_bufferDraw x y w h p l s⟩
  | rotationSet o => exact ⟨_, _, exec_rotationSet o s⟩
  | displayInvert b => exact ⟨_, _, exec_displayInvert b s⟩
  | display => exact ⟨_, _, exec_display s⟩
  | _ => cases hi

theorem requestLatch_operandsOnly (i : Instr) : OperandsOnly (requestLatch i) := by
  cases i <;> exact fun _ => rfl

section Latch

variable {i : Instr} (u : State)

/-- Only the drawing requests latch a window and a byte count (R36, R40). -/
theorem requestLatch_window (hp : ∀ x y c, i ≠ .pixelDraw x y c) (hr : ∀ x y w h c, i ≠ .rectDraw x y w h c)
    (hb : ∀ x y w h p l, i ≠ .bufferDraw x y w h p l) :
    (requestLatch i u).x0 = u.x0 ∧ (requestLatch i u).y0 = u.y0 ∧ (requestLatch i u).x1 = u.x1 ∧
      (requestLatch i u).y1 = u.y1 ∧ (requestLatch i u).rem = u.rem := by
  cases i with
  | pixelDraw x y c => exact absurd rfl (hp x y c)
  | rectDraw x y w h c => exact absurd rfl (hr x y w h c)
  | bufferDraw x y w h p l => exact absurd rfl (hb x y w h p l)
  | _ => exact ⟨rfl, rfl, rfl, rfl, rfl⟩

/-- Only PIXEL_DRAW and RECT_DRAW latch COLOR (R37). -/
theorem requestLatch_color (hp : ∀ x y c, i ≠ .pixelDraw x y c) (hr : ∀ x y w h c, i ≠ .rectDraw x y w h c) :
    (requestLatch i u).color = u.color := by
  cases i with
  | pixelDraw x y c => exact absurd rfl (hp x y c)
  | rectDraw x y w h c => exact absurd rfl (hr x y w h c)
  | _ => rfl

/-- Only RECT_DRAW fills PAT (R41). -/
theorem requestLatch_pat (hr : ∀ x y w h c, i ≠ .rectDraw x y w h c) : (requestLatch i u).pat = u.pat := by
  cases i with
  | rectDraw x y w h c => exact absurd rfl (hr x y w h c)
  | _ => rfl

/-- Only BUFFER_DRAW latches PTR, LEN and CUR (R38, R40). -/
theorem requestLatch_buffer (hb : ∀ x y w h p l, i ≠ .bufferDraw x y w h p l) :
    (requestLatch i u).ptr = u.ptr ∧ (requestLatch i u).len = u.len ∧ (requestLatch i u).cur = u.cur := by
  cases i with
  | bufferDraw x y w h p l => exact absurd rfl (hb x y w h p l)
  | _ => exact ⟨rfl, rfl, rfl⟩

/-- Only ROTATION_SET latches ORIENT (R39). -/
theorem requestLatch_orient (ho : ∀ o, i ≠ .rotationSet o) : (requestLatch i u).orient = u.orient := by
  cases i with
  | rotationSet o => exact absurd rfl (ho o)
  | _ => rfl

/-- Only DISPLAY_INVERT latches INV (R39). -/
theorem requestLatch_inv (hv : ∀ b, i ≠ .displayInvert b) : (requestLatch i u).inv = u.inv := by
  cases i with
  | displayInvert b => exact absurd rfl (hv b)
  | _ => rfl

end Latch

/-- Settles O22: a fault changes FAULT alone, and a begun request what its latch writes. -/
theorem requestFrame : Obligations.RequestFrame := by
  intro i s t hi h
  obtain ⟨o, c, e⟩ := exec_requestLatch i s hi
  obtain ⟨-, ⟨d, rfl⟩ | ⟨-, -, -, rfl⟩⟩ := accept_next (e.symm.trans h)
  · simp
  · have only := requestLatch_operandsOnly i (beginRequest o s)
    refine ⟨?_, fun hf => absurd ?_ hf, requestLatch_window _, requestLatch_color _, requestLatch_pat _,
      requestLatch_buffer _, requestLatch_orient _, requestLatch_inv _⟩
    · rw [only]
      simp
    · rw [only]
      rfl

end Sys2Proof.Proofs
end

section
/-! PROOFS. The micro-operations (40_framer.md): a call with and without its answer (R140, R314), what each
micro-operation sends and writes (R141 to R148), a failed transfer (R151), and the steps that hold or complete a
call. -/

namespace Sys2Proof.Proofs

open Sys2Proof.Machine Sys2Proof.Safety Sys2Proof.Laws

/-! ## A call and its answer -/

/-- What an answer of the TRANSPORT does to the call it answers; a wait takes none. -/
def answerDone : Pending → Answer → State → State
  | .acquire, r => acquireDone r
  | .unit l b, r => unitDone l b r
  | .chunk src bs, r => chunkDone src bs r
  | .wait _, _ => id

section Calls

variable {p : Pending} {s : State}

/-- An outstanding call of the TRANSPORT takes the answer at hand (R314). -/
theorem settle_answered {r : Answer} {rest : List Answer} (hp : s.pending = some p) (hw : ∀ ms, p ≠ .wait ms)
    (ha : s.answers = r :: rest) : settle s = answerDone p r { s with pending := none, answers := rest } := by
  unfold settle
  cases p with
  | wait ms => exact absurd rfl (hw ms)
  | _ => rw [hp, ha]; rfl

/-- Without an answer at hand it stays outstanding (R314). -/
theorem settle_unanswered (hp : s.pending = some p) (hw : ∀ ms, p ≠ .wait ms) (ha : s.answers = []) :
    settle s = s := by
  unfold settle
  cases p with
  | wait ms => exact absurd rfl (hw ms)
  | _ => rw [hp]; simp only [ha]

/-- An outstanding wait ends with a return of the DELAY (R146, R314). -/
theorem settle_returned {ms n : Nat} (hp : s.pending = some (.wait ms)) (hd : s.delayReturns = n + 1) :
    settle s = advance { s with pending := none, delayReturns := n } := by
  unfold settle
  rw [hp]
  simp only [hd]

/-- Without a return it stays outstanding (R314). -/
theorem settle_unreturned {ms : Nat} (hp : s.pending = some (.wait ms)) (hd : s.delayReturns = 0) : settle s = s := by
  unfold settle
  rw [hp]
  simp only [hd]

/-- A call whose answer is at hand completes at once (entry 8). -/
theorem callOut_answered {r : Answer} {rest : List Answer} (hp : s.pending = none) (hw : ∀ ms, p ≠ .wait ms)
    (ha : s.answers = r :: rest) : callOut p s = answerDone p r { s with answers := rest } := by
  rw [callOut, settle_answered (s := { s with pending := some p }) rfl hw ha, hp]

theorem callOut_unanswered (hw : ∀ ms, p ≠ .wait ms) (ha : s.answers = []) :
    callOut p s = { s with pending := some p } :=
  settle_unanswered (s := { s with pending := some p }) rfl hw ha

theorem callOut_returned {ms n : Nat} (hp : s.pending = none) (hd : s.delayReturns = n + 1) :
    callOut (.wait ms) s = advance { s with delayReturns := n } := by
  rw [callOut, settle_returned (s := { s with pending := some (.wait ms) }) rfl hd, hp]

theorem callOut_unreturned {ms : Nat} (hd : s.delayReturns = 0) :
    callOut (.wait ms) s = { s with pending := some (.wait ms) } :=
  settle_unreturned (s := { s with pending := some (.wait ms) }) rfl hd

end Calls

/-! ## Failed transfers -/

/-- All that a failed transfer writes (R151, R265). -/
theorem transferFailed_writes (s : State) :
    transferFailed s = { s with
      lc := (transferFailed s).lc, seq := (transferFailed s).seq, resp := (transferFailed s).resp
      busy := (transferFailed s).busy, responses := (transferFailed s).responses } := by
  obtain ⟨-, h⟩ | ⟨-, h⟩ | ⟨-, h⟩ := transferFailed_cases s <;> rw [h] <;> rfl

/-- Settles O24: the three cases of R151, by OP and the policy. -/
theorem transferFailedAbortsOrGoesOn : Obligations.TransferFailedAbortsOrGoesOn :=
  fun _ => ⟨transferFailed_goesOn, transferFailed_init, transferFailed_other⟩

/-! ## One unit -/

section Unit

variable {l : Level} {b : Byte} {s : State}

theorem unit_ok {rest : List Answer} (hp : s.pending = none) (ha : s.answers = .ok :: rest) :
    callOut (.unit l b) (driveDc l s) = { s with
      dc := some l, trace := s.trace ++ [.dc l, .xfer l [b] .ok], answers := rest, seq := s.seq + 1 } := by
  rw [callOut_answered (p := .unit l b) (s := driveDc l s) hp nofun ha]
  simp [answerDone, unitDone, driveDc, emit, advance]

theorem unit_err {rest : List Answer} (hp : s.pending = none) (ha : s.answers = .err :: rest) :
    callOut (.unit l b) (driveDc l s) = transferFailed { s with
      dc := some l, trace := s.trace ++ [.dc l, .xfer l [b] .err], answers := rest } := by
  rw [callOut_answered (p := .unit l b) (s := driveDc l s) hp nofun ha]
  simp [answerDone, unitDone, driveDc, emit]

theorem unit_unanswered (ha : s.answers = []) :
    callOut (.unit l b) (driveDc l s) = { s with
      dc := some l, trace := s.trace ++ [.dc l], pending := some (.unit l b) } :=
  callOut_unanswered (s := driveDc l s) nofun ha

end Unit

/-- Settles O27: writeData is a unit at DATA. -/
theorem writeDataSendsItsByte : Obligations.WriteDataSendsItsByte :=
  fun _ _ => ⟨fun _ ha hp => congrArg _ (unit_ok hp ha), fun _ ha hp => congrArg _ (unit_err hp ha),
    fun ha _ => congrArg _ (unit_unanswered ha)⟩

/-! ## The wire commands -/

/-- A wire command in a ready ENGINE is a unit at CMD: its byte (R141). -/
theorem exec_wire_ready {i : Instr} {b : Byte} {s : State} (hi : i.isWire = true) (hb : encode i = .wire b)
    (h : engineReady s) : exec i s = .next (callOut (.unit .cmd b) (driveDc .cmd s)) := by
  obtain ⟨hf, hbusy, hp⟩ := h
  cases (encode_wire i hi).symm.trans hb
  rw [exec_wire i s hi, engineStep_ready hf hbusy hp]
  rfl

/-- Settles O23: the unit at CMD under each answer. -/
theorem wireCommandSendsItsByte : Obligations.WireCommandSendsItsByte := by
  intro i b s hi hb h
  have ⟨_, _, hp⟩ := h
  rw [exec_wire_ready hi hb h]
  exact ⟨fun _ ha => congrArg _ (unit_ok hp ha), fun _ ha => congrArg _ (unit_err hp ha),
    fun ha => congrArg _ (unit_unanswered ha)⟩

/-- Settles O25: the next state under each answer; the registers of the response change only by transfer_failed. -/
theorem wireCommandFrame : Obligations.WireCommandFrame := by
  intro i s t hi h
  obtain ⟨hf, hb, hp, -⟩ := engineStep_next ((exec_wire i s hi).symm.trans h)
  rw [exec_wire_ready hi (encode_wire i hi) ⟨hf, hb, hp⟩] at h
  cases h
  match ha : s.answers with
  | [] => simp [unit_unanswered ha]
  | .ok :: rest => simp [unit_ok hp ha]
  | .err :: rest =>
    rw [unit_err hp ha, transferFailed_writes]
    simp

/-- Settles O26: exec of a wire command is a step of the ENGINE, which stops by name outside a ready one. -/
theorem wireCommandNeedsReadyEngine : Obligations.WireCommandNeedsReadyEngine := by
  intro i s hi
  rw [exec_wire i s hi]
  refine ⟨fun c hf => ?_, fun hf hb => ?_, fun hf hb hp => ?_⟩
  · rw [engineStep, hf]
  · rw [engineStep, hf, hb]
    rfl
  · obtain ⟨p, hp⟩ := Option.ne_none_iff_exists'.1 hp
    rw [engineStep, hf, hb, hp]
    rfl

/-! ## Streams -/

/-- Settles O28: the line's two ends of a stream make no call. -/
theorem streamEndsDriveTheLine : Obligations.StreamEndsDriveTheLine := fun _ => ⟨rfl, rfl⟩

/-- Settles O31: with REM = 0 streamChunk only advances SEQ. -/
theorem emptyStreamSendsNothing : Obligations.EmptyStreamSendsNothing := fun _ _ h0 => if_pos h0

section Chunk

variable {src : Src} {bs : List Byte} {s : State} {rest : List Answer}

/-- A delivered chunk within REM (R144): REM falls by its length, SEQ advances where nothing remains, and CUR moves for
a buffer only, by the length wherever a u32 holds the sum (entry 16). -/
theorem chunkDone_delivered (hl : bs.length ≤ s.rem.toNat) :
    ∃ (r c : Word) (draws : Nat),
      chunkDone src bs .ok s = { s with
        trace := s.trace ++ [.xfer .data bs .ok], rem := r, cur := c
        seq := if s.rem.toNat = bs.length then s.seq + 1 else s.seq, freeDraws := draws } ∧
      r.toNat + bs.length = s.rem.toNat ∧ (src ≠ .mem → c = s.cur ∧ draws = s.freeDraws) ∧
      (src = .mem → s.cur.toNat + bs.length < 4294967296 →
        c.toNat = s.cur.toNat + bs.length ∧ draws = s.freeDraws) := by
  have emptied : s.rem.toNat - bs.length = 0 ↔ s.rem.toNat = bs.length := by omega
  refine ⟨(takeRem bs.length s).rem, (advanceCurFor src bs.length s).cur,
    (advanceCurFor src bs.length s).freeDraws, ?_, ?_, fun hsrc => ?_, ?_⟩
  · simp only [chunkDone_ok, emptied]
    rfl
  · rw [takeRem_toNat]
    omega
  · cases src with
    | mem => exact absurd rfl hsrc
    | _ => exact ⟨rfl, rfl⟩
  · rintro rfl hc
    exact ⟨advanceCurFor_mem hc, by rw [advanceCurFor, advanceCur_small hc]⟩

/-- streamChunk with bytes to send is a call with the next chunk (R144). -/
theorem runMicroOp_streamChunk (h0 : s.rem ≠ 0) (ht : chunkPastTop src s = false)
    (hb : chunkBytes src (chunkSize src s) s = bs) :
    runMicroOp (.streamChunk src) s = .next (callOut (.chunk src bs) s) := by
  rw [runMicroOp, streamChunk_sends h0 ht, hb]

theorem chunk_ok (hp : s.pending = none) (ha : s.answers = .ok :: rest) :
    callOut (.chunk src bs) s = chunkDone src bs .ok { s with answers := rest } :=
  callOut_answered (p := .chunk src bs) hp nofun ha

theorem chunk_err (hp : s.pending = none) (ha : s.answers = .err :: rest) :
    callOut (.chunk src bs) s =
      transferFailed { s with trace := s.trace ++ [.xfer .data bs .err], answers := rest } :=
  callOut_answered (p := .chunk src bs) hp nofun ha

theorem chunk_unanswered (ha : s.answers = []) :
    callOut (.chunk src bs) s = { s with pending := some (.chunk src bs) } :=
  callOut_unanswered nofun ha

theorem chunkSize_le (src : Src) (s : State) : chunkSize src s ≤ s.rem.toNat := Nat.min_le_left _ _

end Chunk

/-- Settles O29: neither source can pass the top of host memory, and neither moves CUR. -/
theorem fillAndPixelChunks : Obligations.FillAndPixelChunks := by
  intro s rest src bs hp h0 hsrc
  obtain ⟨hmem, ht, hb⟩ : src ≠ .mem ∧ chunkPastTop src s = false ∧ chunkBytes src (chunkSize src s) s = bs := by
    rcases hsrc with ⟨rfl, rfl⟩ | ⟨rfl, rfl⟩ <;> exact ⟨nofun, rfl, rfl⟩
  have hl : bs.length ≤ s.rem.toNat := by
    rw [← hb, length_chunkBytes]
    exact chunkSize_le src s
  rw [runMicroOp_streamChunk h0 ht hb]
  refine ⟨fun ha => ?_, fun ha => congrArg _ (chunk_err hp ha), fun ha => congrArg _ (chunk_unanswered ha)⟩
  obtain ⟨r, c, draws, e, hr, hkept, -⟩ := chunkDone_delivered (src := src) (s := { s with answers := rest }) hl
  obtain ⟨rfl, rfl⟩ := hkept hmem
  exact ⟨r, hr, congrArg _ ((chunk_ok hp ha).trans e)⟩

/-- Settles O30: the chunk ends inside host memory, and CUR moves by its length. -/
theorem bufferChunk : Obligations.BufferChunk := by
  intro s rest n bs hp h0 hn hend hbs
  have size : chunkSize .mem s = n := hn.symm
  have ht : chunkPastTop .mem s = false := by
    simp only [chunkPastTop, size, decide_eq_false_iff_not]
    omega
  have hb : chunkBytes .mem (chunkSize .mem s) s = bs := by
    rw [size, hbs]
    exact readRange_eq s.mem n s.cur.toNat
  have hlen : bs.length = n := by rw [← hb, length_chunkBytes, size]
  have hl : n ≤ s.rem.toNat := size ▸ chunkSize_le .mem s
  rw [runMicroOp_streamChunk h0 ht hb]
  refine ⟨fun ha => ?_, fun ha => congrArg _ (chunk_err hp ha), fun ha => congrArg _ (chunk_unanswered ha)⟩
  obtain ⟨r, c, draws, e, hr, -, hc⟩ :=
    chunkDone_delivered (src := .mem) (s := { s with answers := rest }) (hlen.trans_le hl)
  refine ⟨_, congrArg _ ((chunk_ok hp ha).trans e), rfl, ?_, fun hlt => ?_, ?_, rfl⟩
  · exact Nat.eq_sub_of_add_eq (hlen ▸ hr)
  · exact hlen ▸ (hc rfl (hlen.symm ▸ hlt)).1
  · rw [hlen]

/-! ## wait, acquire, release and respond -/

/-- Settles O32: the event, then the call. -/
theorem waitRecordsAndHolds : Obligations.WaitRecordsAndHolds :=
  fun ms s hp => ⟨fun _ hd => congrArg _ (callOut_returned (s := emit (.wait ms) s) hp hd),
    fun hd => congrArg _ (callOut_unreturned (s := emit (.wait ms) s) hd)⟩

/-- Settles O33: its only place, and the call under each answer. -/
theorem acquireAnswersOrEndsInit : Obligations.AcquireAnswersOrEndsInit := by
  refine ⟨fun _ _ _ => acquire_position, fun s rest hp => ⟨fun ha => ?_, fun ha => ?_, fun ha => ?_⟩⟩
  · exact congrArg _ (callOut_answered (p := .acquire) hp nofun ha)
  · exact congrArg _ (callOut_answered (p := .acquire) hp nofun ha)
  · exact congrArg _ (callOut_unanswered (p := .acquire) nofun ha)

/-- Settles O34: neither makes a call. -/
theorem releaseAndRespond : Obligations.ReleaseAndRespond := fun _ _ => ⟨rfl, rfl, rfl⟩

/-! ## Steps -/

/-- With no fault, an empty port and no reset next, it is the outside world's or the block's turn. -/
theorem step_turn {s : State} (hc : configOk s = true) (hf : s.fault = none) (hport : s.port = none)
    (hn : noReset s) : step s = turn s := by
  rw [step_live hc hn, liveTurn_turn hf hport]

/-- Settles O14: none of the three moves takes the block's turn, and a ready ENGINE runs the micro-operation. -/
theorem stepRunsMicroOperation : Obligations.StepRunsMicroOperation := by
  intro m s hc hready hport hm
  obtain ⟨hf, hb, hp⟩ := hready
  have run : blockStep s = runMicroOp m s := blockStep_micro hp hb hm
  refine ⟨fun hh => ?_, fun d rest hh => ?_, fun rest hh => ?_, fun b i e hd => ?_⟩
  · rw [step_block hc hf hport hh, run]
  · rw [step_turn hc hf hport (by simp [noReset, hh]), turn, hh]
    simp only [hb, if_true, run]
  · rw [step_turn hc hf hport (by simp [noReset, hh]), turn, hh]
    exact blockStep_micro (s := { s with host := rest }) hp hb hm
  · rw [e, runMicroOp, runCommandByte, hd]

/-- With a call outstanding the block's step is the TRANSPORT's or the DELAY's (R314). -/
theorem step_settle {s : State} {p : Pending} (hc : configOk s = true) (hf : s.fault = none) (hport : s.port = none)
    (hh : s.host = []) (hp : s.pending = some p) : step s = .next (settle s) := by
  rw [step_block hc hf hport hh, blockStep, hp]

/-- Settles O35: the step is `settle`, which holds the call or completes it with its answer. -/
theorem heldUntilAnswered : Obligations.HeldUntilAnswered := by
  intro s hc hf hport
  refine ⟨fun p hh hp => ?_, fun r rest hh => ?_, fun rest hh => ?_⟩
  · rw [step_settle hc hf hport hh hp]
    refine ⟨fun hw ha => congrArg _ (settle_unanswered hp hw ha), ?_, ?_, ?_, ?_, ?_⟩
    · rintro ⟨ms, rfl⟩ hd
      exact congrArg _ (settle_unreturned hp hd)
    · rintro l b rest rfl
      exact ⟨fun ha => congrArg _ (settle_answered hp nofun ha), fun ha => congrArg _ (settle_answered hp nofun ha)⟩
    · rintro src bs rest rfl hl
      refine ⟨fun ha => ?_, fun ha => congrArg _ (settle_answered hp nofun ha)⟩
      obtain ⟨r, c, draws, e, hrest⟩ :=
        chunkDone_delivered (src := src) (s := { s with pending := none, answers := rest }) hl
      exact ⟨r, c, draws, congrArg _ ((settle_answered hp nofun ha).trans e), hrest⟩
    · rintro rest rfl
      exact ⟨fun ha => congrArg _ (settle_answered hp nofun ha), fun ha => congrArg _ (settle_answered hp nofun ha)⟩
    · rintro ms n rfl hd
      exact congrArg _ (settle_returned hp hd)
  · rw [step_turn hc hf hport (by simp [noReset, hh]), turn, hh]
    rfl
  · rw [step_turn hc hf hport (by simp [noReset, hh]), turn, hh]
    rfl

end Sys2Proof.Proofs
end

section
/-! PROOFS. Window before pixel data (R160, R162, R164, R173, R175, R306): the run of a window-set, and the drawing
invariant, which a request's acceptance begins with REM as the stream's length and every step of the block keeps. -/

namespace Sys2Proof.Proofs

open Sys2Proof.Machine Sys2Proof.Safety Sys2Proof.Laws

/-! ## Which requests draw -/

theorem streamSource_of_draws {o : Op} (h : o = .pixelDraw ∨ o = .rectDraw ∨ o = .bufferDraw) :
    ∃ src, streamSource o = some src := by
  rcases h with rfl | rfl | rfl <;> exact ⟨_, rfl⟩

theorem draws_of_streamSource {o : Op} {src : Src} (h : streamSource o = some src) :
    o = .pixelDraw ∨ o = .rectDraw ∨ o = .bufferDraw := by
  cases o with
  | pixelDraw => exact .inl rfl
  | rectDraw => exact .inr (.inl rfl)
  | bufferDraw => exact .inr (.inr rfl)
  | _ => cases h

theorem microProgram_draw {o : Op} {src : Src} (s : State) (h : streamSource o = some src) :
    microProgram o s = drawProgram src s := by
  cases o <;> cases h <;> rfl

/-! ## The run of a window-set -/

/-- Settles O52: the window-set is the first eleven units of the request's micro-program. -/
theorem windowSetRuns : Obligations.WindowSetRuns := by
  intro s rest hc hready hport hhost hop hseq ha
  obtain ⟨o, src, ho, hsrc⟩ : ∃ o src, s.op = opCode o ∧ streamSource o = some src := by
    rcases hop with h | h | h
    · exact ⟨.pixelDraw, _, h, rfl⟩
    · exact ⟨.rectDraw, _, h, rfl⟩
    · exact ⟨.bufferDraw, _, h, rfl⟩
  refine ⟨?_, rfl, rfl, rfl⟩
  have run := steps_units o (windowUnits s.x0 s.y0 s.x1 s.y1) s rest ⟨hc, hready, hport, hhost⟩ ho
    (by simpa only [hseq, Nat.zero_add, microProgram_draw s hsrc] using drawProgram_units src s) ha
  rw [hseq] at run
  exact run

/-! ## The micro-operations of a drawing request -/

theorem unitOp_of_unitOf {m : MicroOp} {l : Level} {b : Byte} (h : unitOf m = some (l, b)) : m = unitOp l b := by
  cases m with
  | writeCommand c =>
    rw [unitOf] at h
    split at h <;> cases h
    rfl
  | writeData c => cases h; rfl
  | _ => cases h

theorem unitOp_injective {l l' : Level} {b b' : Byte} (h : unitOp l b = unitOp l' b') : (l, b) = (l', b') := by
  cases l <;> cases l' <;> cases h <;> rfl

/-- A drawing request's micro-operation is the unit of the window-set at SEQ, up to SEQ 10, or one of the four after it
(R160, R171, R174, R177). -/
theorem microOp_draw {o : Op} {src : Src} {m : MicroOp} {s : State} (hsrc : streamSource o = some src)
    (ho : s.op = opCode o) (hm : microOp s = some m) :
    (∃ l b, s.seq ≤ 10 ∧ (windowUnits s.x0 s.y0 s.x1 s.y1)[s.seq]? = some (l, b) ∧ m = unitOp l b) ∨
      (10 < s.seq ∧ m ∈ [.streamBegin, .streamChunk src, .streamEnd, .respond none]) := by
  rw [microOp_eq ho, microProgram_draw s hsrc] at hm
  rcases Nat.lt_or_ge 10 s.seq with hn | hn
  · rw [drawProgram, List.getElem?_append_right hn] at hm
    exact .inr ⟨hn, List.mem_of_getElem? hm⟩
  · have hlen : s.seq < (windowUnits s.x0 s.y0 s.x1 s.y1).length := Nat.lt_succ_of_le hn
    have hu := List.getElem?_eq_getElem hlen
    obtain ⟨m', hm', e⟩ := drawProgram_units src s s.seq _ hu
    obtain rfl : m' = m := Option.some.inj (hm'.symm.trans hm)
    exact .inl ⟨_, _, hn, hu, unitOp_of_unitOf e⟩

/-- A unit of a drawing request is the window-set's at SEQ. -/
theorem window_of_unit {o : Op} {src : Src} {l : Level} {b : Byte} {s : State} (hsrc : streamSource o = some src)
    (ho : s.op = opCode o) (hm : microOp s = some (unitOp l b)) :
    s.seq ≤ 10 ∧ (windowUnits s.x0 s.y0 s.x1 s.y1)[s.seq]? = some (l, b) := by
  obtain ⟨l', b', hn, hu, e⟩ | ⟨-, hmem⟩ := microOp_draw hsrc ho hm
  · rw [unitOp_injective e]
    exact ⟨hn, hu⟩
  · cases l <;> simp [unitOp] at hmem

/-- A drawing request waits for no delay. -/
theorem microOp_ne_wait {o : Op} {src : Src} {s : State} (hsrc : streamSource o = some src) (ho : s.op = opCode o)
    (ms : Nat) : microOp s ≠ some (.wait ms) := by
  intro hm
  obtain ⟨l, b, -, -, e⟩ | ⟨-, hmem⟩ := microOp_draw hsrc ho hm
  · cases l <;> cases e
  · simp at hmem

/-- A drawing request is not INIT. -/
theorem op_ne_init {o : Op} {src : Src} {s : State} (hsrc : streamSource o = some src) (ho : s.op = opCode o) :
    s.op ≠ opCode .init := by
  intro h
  rw [opCode_injective (ho.symm.trans h)] at hsrc
  cases hsrc

/-- A unit's micro-operation is the call of its transfer, the line being driven first (R141, R142). -/
theorem runMicroOp_unitOp {l : Level} {b : Byte} {s t : State} (h : runMicroOp (unitOp l b) s = .next t) :
    t = callOut (.unit l b) (driveDc l s) := by
  cases l with
  | cmd =>
    obtain ⟨-, -, -, rfl⟩ := runCommandByte_next h
    rfl
  | data => cases h; rfl

/-! ## The events of a window-set, unit by unit -/

/-- Each unit is two events: the select line, then the transfer (R141, R142). -/
theorem unitEvents_getElem? {us : List (Level × Byte)} {l : Level} {b : Byte} :
    ∀ {n : Nat}, us[n]? = some (l, b) →
      (unitEvents us)[2 * n]? = some (.dc l) ∧ (unitEvents us)[2 * n + 1]? = some (.xfer l [b] .ok) := by
  induction us with
  | nil => intro n h; cases h
  | cons u us ih =>
    intro n h
    cases n with
    | zero => cases h; exact ⟨rfl, rfl⟩
    | succ n => exact ih h

theorem windowEvents_eq_unitEvents (x0 y0 x1 y1 : Half) :
    windowEvents x0 y0 x1 y1 = unitEvents (windowUnits x0 y0 x1 y1) := rfl

/-- The events sent up to a unit's select line, and up to its transfer. -/
theorem windowEvents_take {x0 y0 x1 y1 : Half} {n : Nat} {l : Level} {b : Byte}
    (h : (windowUnits x0 y0 x1 y1)[n]? = some (l, b)) :
    (windowEvents x0 y0 x1 y1).take (2 * n + 1) = (windowEvents x0 y0 x1 y1).take (2 * n) ++ [.dc l] ∧
      (windowEvents x0 y0 x1 y1).take (2 * n + 2) =
        (windowEvents x0 y0 x1 y1).take (2 * n + 1) ++ [.xfer l [b] .ok] := by
  obtain ⟨hdc, hxfer⟩ := unitEvents_getElem? h
  simp only [windowEvents_eq_unitEvents, List.take_add_one, hdc, hxfer, Option.toList, and_self]

theorem sentBytes_append (a b : List Event) : sentBytes (a ++ b) = sentBytes a ++ sentBytes b := by
  induction a with
  | nil => rfl
  | cons e a ih => cases e <;> simp [sentBytes, ih]

/-! ## What a drawing request has sent -/

theorem drawSent_window {o : Op} {s : State} (hn : s.seq ≤ 10) :
    drawSent o s ↔ s.rem.toNat = streamTotal o s ∧
      ∃ before, s.trace =
        before ++ (windowEvents s.x0 s.y0 s.x1 s.y1).take (2 * s.seq + s.pending.isSome.toNat) := by
  rw [drawSent, if_pos hn]

theorem drawSent_stream {o : Op} {s : State} (hn : 10 < s.seq) :
    drawSent o s ↔ ∃ before tail, s.trace = before ++ windowEvents s.x0 s.y0 s.x1 s.y1 ++ tail ∧
      tail.all streamEvent = true ∧ (sentBytes tail).length + s.rem.toNat = streamTotal o s := by
  rw [drawSent, if_neg (by omega)]

/-- The block's own step keeps the stream's length. -/
theorem streamTotal_frame {s t : State} (h : BlockFrame s t) (o : Op) : streamTotal o t = streamTotal o s := by
  cases o <;> simp only [streamTotal, h.len, h.x0, h.x1, h.y0, h.y1]

/-- A unit of the window-set called: its select-line event is sent (R141, R142). -/
theorem drawSent_called {o : Op} {s : State} {l : Level} {b : Byte} (hd : drawSent o s) (hn : s.seq ≤ 10)
    (hu : (windowUnits s.x0 s.y0 s.x1 s.y1)[s.seq]? = some (l, b)) (hp : s.pending = none) :
    drawSent o { driveDc l s with pending := some (.unit l b) } := by
  obtain ⟨hrem, before, ht⟩ := (drawSent_window hn).1 hd
  rw [hp] at ht
  refine (drawSent_window ?_).2 ⟨hrem, before, ?_⟩
  · exact hn
  · show s.trace ++ [.dc l] = before ++ (windowEvents s.x0 s.y0 s.x1 s.y1).take (2 * s.seq + 1)
    rw [(windowEvents_take hu).1, ht, List.append_assoc]
    rfl

/-- A unit of the window-set delivered: SEQ advances, and past SEQ 10 the window-set is whole. -/
theorem drawSent_delivered {o : Op} {s : State} {l : Level} {b : Byte} (hd : drawSent o s) (hn : s.seq ≤ 10)
    (hu : (windowUnits s.x0 s.y0 s.x1 s.y1)[s.seq]? = some (l, b)) (hp : s.pending = some (.unit l b))
    (rest : List Answer) : drawSent o (unitDone l b .ok { s with pending := none, answers := rest }) := by
  obtain ⟨hrem, before, ht⟩ := (drawSent_window hn).1 hd
  rw [hp] at ht
  have sent : s.trace ++ [.xfer l [b] .ok] =
      before ++ (windowEvents s.x0 s.y0 s.x1 s.y1).take (2 * (s.seq + 1)) := by
    rw [Nat.mul_succ, (windowEvents_take hu).2, ht, List.append_assoc]
    rfl
  rcases Nat.lt_or_ge s.seq 10 with hlt | hge
  · refine (drawSent_window ?_).2 ⟨hrem, before, sent⟩
    exact hlt
  · have last : s.seq = 10 := Nat.le_antisymm hn hge
    rw [last] at sent
    refine (drawSent_stream (Nat.lt_succ_of_le hge)).2 ⟨before, [], ?_, rfl, (Nat.zero_add _).trans hrem⟩
    rw [List.append_nil]
    exact sent

/-- After the window-set: what is sent more is delivered data and select-line events, and REM falls by its bytes. -/
theorem drawSent_streamed {o : Op} {s t : State} {es : List Event} (hd : drawSent o s) (hn : 10 < s.seq)
    (hf : BlockFrame s t) (hseq : s.seq ≤ t.seq) (ht : t.trace = s.trace ++ es) (hes : es.all streamEvent = true)
    (hrem : (sentBytes es).length + t.rem.toNat = s.rem.toNat) : drawSent o t := by
  obtain ⟨before, tail, hs, htail, hsum⟩ := (drawSent_stream hn).1 hd
  refine (drawSent_stream (Nat.lt_of_lt_of_le hn hseq)).2 ⟨before, tail ++ es, ?_, ?_, ?_⟩
  · rw [ht, hs, hf.x0, hf.y0, hf.x1, hf.y1, List.append_assoc _ tail]
  · rw [List.all_append, htail, hes]
    rfl
  · rw [sentBytes_append, List.length_append, streamTotal_frame hf, ← hsum, ← hrem, Nat.add_assoc]

/-- A delivered chunk (R144). -/
theorem drawSent_chunk {o : Op} {s : State} {src : Src} {bs : List Byte} (hd : drawSent o s) (hn : 10 < s.seq)
    (hlen : bs.length ≤ s.rem.toNat) (rest : List Answer) :
    drawSent o (chunkDone src bs .ok { s with pending := none, answers := rest }) := by
  have hf : BlockFrame s (chunkDone src bs .ok { s with pending := none, answers := rest }) :=
    (BlockFrame.of_eq [] [] (by simp)).trans (frame_chunkDone _ _ _ _)
  obtain ⟨r, c, draws, e, hr, -⟩ :=
    chunkDone_delivered (src := src) (s := { s with pending := none, answers := rest }) hlen
  refine drawSent_streamed (es := [.xfer .data bs .ok]) hd hn hf ?_ (chunkDone_trace ..) rfl ?_
  · rw [e]
    dsimp only
    split
    · exact Nat.le_succ _
    · exact Nat.le_refl _
  · rw [e]
    simpa [sentBytes, Nat.add_comm] using hr

/-! ## The block's own step -/

section Draw

variable {o : Op} {src : Src} {s t : State} (h : RequestInv s) (hsrc : streamSource o = some src)
  (ho : s.op = opCode o) (hd : drawSent o s)

include h hsrc ho hd

/-- An answer keeps what a drawing request has sent, or ends the request (R265). -/
theorem drawSent_settle (hb : (settle s).busy = true) : drawSent o (settle s) := by
  have failed : ∀ e as, settle s ≠ transferFailed (emit e { s with pending := none, answers := as }) := by
    intro e as hs
    have hi : (emit e { s with pending := none, answers := as }).op ≠ opCode .init := op_ne_init hsrc ho
    rw [hs, transferFailed_other hi] at hb
    cases hb
  obtain e | ⟨r, rest, hp, -, -⟩ | ⟨l, b, r, rest, hp, -, e⟩ | ⟨src', bs, r, rest, hp, -, e⟩ | ⟨ms, n, hp, -, -⟩ :=
    settle_cases s
  · rwa [e]
  · exact absurd (init_of_acquire h hp).1 (op_ne_init hsrc ho)
  · obtain ⟨hn, hu⟩ := window_of_unit hsrc ho (microOp_of_pending h hp)
    cases r with
    | ok => exact e ▸ drawSent_delivered hd hn hu hp rest
    | err => exact absurd e (failed _ rest)
  · have hn : s.seq = 12 := (streamSource_of_chunk ho (microOp_of_pending h hp)).1
    obtain ⟨-, hlen, -⟩ := chunk_of_pending h hp
    cases r with
    | ok => exact e ▸ drawSent_chunk hd (by omega) (hlen ▸ chunkSize_le src' s) rest
    | err => exact absurd e (failed _ rest)
  · exact absurd (microOp_of_pending h hp) (microOp_ne_wait hsrc ho ms)

/-- So does a micro-operation; a unit and a chunk are a call and then its answer, where it is at hand. -/
theorem drawSent_runMicroOp {m : MicroOp} (hp : s.pending = none) (hb : s.busy = true) (hm : microOp s = some m)
    (hr : runMicroOp m s = .next t) (htb : t.busy = true) : drawSent o t := by
  have hf := frame_runMicroOp hr
  obtain ⟨l, b, hn, hu, rfl⟩ | ⟨hn, hmem⟩ := microOp_draw hsrc ho hm
  · obtain rfl := runMicroOp_unitOp hr
    exact drawSent_settle (requestInv_move h (.unitCalled l b hb hm)) hsrc ho (drawSent_called hd hn hu hp) htb
  · have sends : ∀ es, s.seq ≤ t.seq → t.trace = s.trace ++ es → es.all streamEvent = true →
        sentBytes es = [] → t.rem = s.rem → drawSent o t := by
      intro es hseq ht hes hbytes hrem
      exact drawSent_streamed hd hn hf hseq ht hes (by rw [hbytes, hrem]; exact Nat.zero_add _)
    simp only [List.mem_cons, List.not_mem_nil, or_false] at hmem
    obtain rfl | rfl | rfl | rfl := hmem
    · cases hr
      exact sends [.dc .data] (Nat.le_succ _) rfl rfl rfl rfl
    · obtain ⟨-, rfl⟩ | ⟨h0, htop, rfl⟩ := streamChunk_next hr
      · exact sends [] (Nat.le_succ _) (List.append_nil _).symm rfl rfl rfl
      · refine drawSent_settle (requestInv_move h (.chunkCalled src hb hm h0 htop)) hsrc ho ?_ htb
        exact drawSent_streamed (es := []) hd hn (.of_eq [] [] (by simp)) (Nat.le_refl _) (List.append_nil _).symm rfl
          (Nat.zero_add _)
    · cases hr
      exact sends [.dc .cmd] (Nat.le_succ _) rfl rfl rfl rfl
    · cases hr
      cases htb

end Draw

/-! ## Acceptance -/

/-- A request that draws is accepted with REM the length of its stream (R170, R172, R174, R177). -/
theorem exec_request_rem (i : Instr) (s : State) (hi : i.isWire = false) :
    ∃ o c f, exec i s = accept o c f s ∧ OperandsOnly f ∧
      (c = none → ∀ src, streamSource o = some src →
        (f (beginRequest o s)).rem.toNat = streamTotal o (f (beginRequest o s))) := by
  cases i with
  | init => exact ⟨_, _, _, exec_init s, fun _ => rfl, fun _ => nofun⟩
  | uninit => exact ⟨_, _, _, exec_uninit s, fun _ => rfl, fun _ => nofun⟩
  | pixelDraw x y c =>
    refine ⟨_, _, _, exec_pixelDraw x y c s, fun _ => rfl, fun _ _ _ => ?_⟩
    simp [latchPixel, streamTotal]
  | rectDraw x y w h c =>
    refine ⟨_, _, _, exec_rectDraw x y w h c s, fun _ => rfl, fun hc _ _ => ?_⟩
    obtain ⟨hwin, ht⟩ := checkRect_window hc
    obtain ⟨hw, hh, hx, hy⟩ := checkWindow_none.1 hwin
    have width : (BitVec.ofNat 16 (corner x w)).toNat - x.toNat + 1 = w.toNat := by
      have := corner_toNat hw hx
      omega
    have height : (BitVec.ofNat 16 (corner y h)).toNat - y.toNat + 1 = h.toNat := by
      have := corner_toNat hh hy
      omega
    show (BitVec.ofNat 32 (2 * w.toNat * h.toNat)).toNat =
      ((BitVec.ofNat 16 (corner x w)).toNat - x.toNat + 1) *
        ((BitVec.ofNat 16 (corner y h)).toNat - y.toNat + 1) * 2
    rw [width, height, BitVec.toNat_ofNat, Nat.mod_eq_of_lt ht]
    ring
  | bufferDraw x y w h p l => exact ⟨_, _, _, exec_bufferDraw x y w h p l s, fun _ => rfl, fun _ _ _ => rfl⟩
  | rotationSet o => exact ⟨_, _, _, exec_rotationSet o s, fun _ => rfl, fun _ => nofun⟩
  | displayInvert b => exact ⟨_, _, _, exec_displayInvert b s, fun _ => rfl, fun _ => nofun⟩
  | display => exact ⟨_, _, _, exec_display s, fun _ => rfl, fun _ => nofun⟩
  | _ => cases hi

/-! ## A step -/

/-- What the drawing invariant says of TRACE and REM. -/
def DrawingSent (s : State) : Prop :=
  s.busy = true → ∀ o src, streamSource o = some src → s.op = opCode o → drawSent o s

theorem drawInv_iff (s : State) : DrawInv s ↔ RequestInv s ∧ DrawingSent s := by
  refine and_congr_right fun _ => forall_congr' fun _ => ⟨fun h o _ hsrc => ?_, fun h o ho => ?_⟩
  · exact h o (draws_of_streamSource hsrc)
  · obtain ⟨src, hsrc⟩ := streamSource_of_draws ho
    exact h o src hsrc

/-- Taking a presented descriptor begins a request, which has sent nothing yet, or records a fault. -/
theorem drawingSent_acceptPort {d : Descriptor} {s t : State} (h : RequestInv s) (hd : DrawingSent s)
    (hf : s.fault = none) (ha : acceptPort d s = .next t) : DrawingSent t := by
  obtain ⟨c, rfl⟩ | ⟨-, i, hdec, he⟩ := acceptPort_next hf ha
  · exact hd
  · obtain ⟨o, c, f, e, hlatch, hrem⟩ := exec_request_rem i s (decodeRequest_request hdec)
    obtain ⟨-, ⟨c, rfl⟩ | ⟨hb, -, hc, rfl⟩⟩ := accept_next (e.symm.trans he)
    · exact hd
    · intro _ o' src hsrc ho
      obtain rfl : o' = o := opCode_injective (ho.symm.trans (by rw [hlatch]; rfl))
      have hseq : (f (beginRequest o' s)).seq = 0 := by rw [hlatch]; rfl
      have hp : (f (beginRequest o' s)).pending = none := by
        rw [hlatch]
        exact (beginRequest_pending o' s).trans (requestInv_waiting h hb)
      refine (drawSent_window (by omega)).2 ⟨hrem hc src hsrc, (f (beginRequest o' s)).trace, ?_⟩
      rw [hseq, hp]
      exact (List.append_nil _).symm

/-- The block's own step. -/
theorem drawingSent_blockStep {s t : State} (h : RequestInv s) (hd : DrawingSent s) (hs : blockStep s = .next t) :
    DrawingSent t := by
  intro htb o src hsrc ho
  have hop : s.op = opCode o := (frame_blockStep hs).op.symm.trans ho
  obtain ⟨hp, rfl⟩ | ⟨hp, hb, m, hm, hr⟩ | ⟨-, -, rfl⟩ := blockStep_cases hs
  · obtain ⟨p, hp⟩ := Option.ne_none_iff_exists'.1 hp
    exact drawSent_settle h hsrc hop (hd (busy_of_pending h hp) o src hsrc hop) htb
  · exact drawSent_runMicroOp h hsrc hop (hd hb o src hsrc hop) hp hb hm hr htb
  · exact hd htb o src hsrc hop

/-- Settles O44: acceptance begins with nothing sent and REM the stream's length, each unit called and delivered sends the
next two events of the window-set, and after it a delivered chunk lowers REM by its bytes. -/
theorem stepKeepsWindowBeforePixels : Obligations.StepKeepsWindowBeforePixels := by
  intro s t h hs
  rw [drawInv_iff] at h ⊢
  obtain ⟨hr, hd⟩ := h
  refine ⟨stepKeepsRequestInvariant s t hr hs, ?_⟩
  obtain ⟨rest, hreset⟩ | hn := reset_or_noReset s
  · rw [step_reset_next hs hreset]
    exact nofun
  · obtain ⟨-, ⟨hf, d, -, ha⟩ | ⟨p, as, n, rest, rfl⟩ | ⟨a, b, rest, -, rfl⟩ | ⟨-, -, rest, hblock⟩⟩ := step_cases hs hn
    · exact drawingSent_acceptPort (s := takePort d s) hr hd hf ha
    · exact hd
    · exact hd
    · exact drawingSent_blockStep (s := { s with host := rest }) hr hd hblock

end Sys2Proof.Proofs
end

section
/-! PROOFS. Drawing (R170 to R178): the operand checks in R263's order, the laws of the two chunk schedules, and the runs
of RECT_DRAW, BUFFER_DRAW and PIXEL_DRAW from acceptance to their response, every answer `ok`. -/

namespace Sys2Proof.Proofs

open Sys2Proof.Machine Sys2Proof.Safety Sys2Proof.Laws

/-! ## Operand faults -/

theorem checkRect_of_window {x y w h : Half} {c : FaultCode} (hc : checkWindow x y w h = some c) :
    checkRect x y w h = some c := by
  rw [checkRect, hc]

theorem checkBuffer_of_window {cfg : Config} {x y w h : Half} {p l : Word} {c : FaultCode}
    (hc : checkWindow x y w h = some c) : checkBuffer cfg x y w h p l = some c := by
  rw [checkBuffer, hc]

/-- Settles O21: in a READY block each request records what its operand check answers; the window's part of the check
comes first, and the clauses after it take the checks in R263's order. -/
theorem operandFaultsInOrder : Obligations.OperandFaultsInOrder := by
  intro x y w h c p l s hf hb hl
  have rect : ∀ {d}, checkRect x y w h = some d → exec (.rectDraw x y w h c) s = .next { s with fault := some d } := by
    intro d hd
    rw [exec_rectDraw, hd]
    exact accept_operand hf hb (by rw [hl]; rfl)
  have buffer : ∀ {d}, checkBuffer s.cfg x y w h p l = some d →
      exec (.bufferDraw x y w h p l) s = .next { s with fault := some d } := by
    intro d hd
    rw [exec_bufferDraw, hd]
    exact accept_operand hf hb (by rw [hl]; rfl)
  constructor
  · intro hbad
    have bad := checkWindow_bad hbad
    exact ⟨rect (checkRect_of_window bad), buffer (checkBuffer_of_window bad)⟩
  · intro hgood
    have good := checkWindow_none.2 hgood
    exact ⟨fun ht => rect (checkRect_overflow good ht), fun hn => buffer (checkBuffer_length good hn),
      fun ⟨hn, hp⟩ => buffer (checkBuffer_wrap good hn hp)⟩

/-! ## The chunk schedules -/

/-- Induction along a schedule: nothing, one last chunk of at most k, or a chunk of k before the rest. -/
theorem chunk_induction {P : Nat → Prop} {k : Nat} (hk : 1 ≤ k) (empty : P 0) (last : ∀ n, 1 ≤ n → n ≤ k → P n)
    (more : ∀ n, k < n → P (n - k) → P n) (n : Nat) : P n := by
  induction n using Nat.strongRecOn with
  | _ n ih =>
    rcases Nat.eq_zero_or_pos n with rfl | h1
    · exact empty
    · rcases Nat.lt_or_ge k n with hn | hn
      · exact more n hn (ih (n - k) (by omega))
      · exact last n h1 hn

/-- The chunks are the bytes in order, as few as can be with at most k in each, and none is empty (R173, R175). -/
def CutInto (k : Nat) (chunks : List (List Byte)) (bytes : List Byte) : Prop :=
  chunks.length = (bytes.length + k - 1) / k ∧ (∀ bs ∈ chunks, 1 ≤ bs.length ∧ bs.length ≤ k) ∧ chunks.flatten = bytes

theorem cutInto_nil {k : Nat} (hk : 1 ≤ k) : CutInto k [] [] :=
  ⟨(Nat.div_eq_of_lt (by simp only [List.length_nil]; omega)).symm, by simp, rfl⟩

theorem cutInto_last {k : Nat} {bs : List Byte} (h1 : 1 ≤ bs.length) (hk : bs.length ≤ k) : CutInto k [bs] bs :=
  ⟨(Nat.div_eq_of_lt_le (by rw [List.length_singleton]; omega) (by rw [List.length_singleton]; omega)).symm,
    by simp [h1, hk], by simp⟩

theorem cutInto_cons {k : Nat} {bs : List Byte} {chunks : List (List Byte)} {bytes : List Byte} (hk : 1 ≤ k)
    (hbs : bs.length = k) (h : CutInto k chunks bytes) : CutInto k (bs :: chunks) (bs ++ bytes) := by
  obtain ⟨hcount, hsize, hjoin⟩ := h
  refine ⟨?_, ?_, by rw [List.flatten_cons, hjoin]⟩
  · have : k + bytes.length + k - 1 = bytes.length + k - 1 + k := by omega
    rw [List.length_cons, hcount, List.length_append, hbs, this, Nat.add_div_right _ hk]
  · rintro b (_ | ⟨_, hb⟩)
    · omega
    · exact hsize b hb

/-- A fill's schedule cuts the colour's bytes into chunks of 32 (R173). -/
theorem fillChunks_cutInto (c : Half) (pixels : Nat) : CutInto 32 (fillChunks c pixels) (colorBytes c pixels) := by
  induction pixels using chunk_induction (k := 16) (by decide) with
  | empty => exact cutInto_nil (by decide)
  | last n h1 hn =>
    rw [fillChunks_small c h1 hn]
    exact cutInto_last (by rw [length_colorBytes]; omega) (by rw [length_colorBytes]; omega)
  | more n hn ih =>
    have split : colorBytes c n = colorBytes c 16 ++ colorBytes c (n - 16) := by
      rw [← colorBytes_add, Nat.add_sub_cancel' hn.le]
    rw [fillChunks_large c hn, split]
    exact cutInto_cons (by decide) (length_colorBytes c 16) ih

theorem length_hostBytes (m : Memory) (addr n : Nat) : (hostBytes m addr n).length = n := by simp [hostBytes]

theorem bufferChunks_zero (m : Memory) (ptr k : Nat) : bufferChunks m ptr 0 k = [] := by simp [bufferChunks]

theorem bufferChunks_small (m : Memory) (ptr : Nat) {n k : Nat} (h1 : 1 ≤ n) (hn : n ≤ k) :
    bufferChunks m ptr n k = [hostBytes m ptr n] := by
  unfold bufferChunks
  rcases Nat.lt_or_eq_of_le hn with hlt | rfl
  · rw [Nat.div_eq_of_lt hlt, Nat.mod_eq_of_lt hlt, if_neg (by omega)]
    simp
  · rw [Nat.div_self h1, Nat.mod_self]
    simp

theorem bufferChunks_large (m : Memory) (ptr : Nat) {n k : Nat} (hk : 1 ≤ k) (hn : k < n) :
    bufferChunks m ptr n k = hostBytes m ptr k :: bufferChunks m (ptr + k) (n - k) k := by
  obtain ⟨r, rfl⟩ := Nat.exists_eq_add_of_le hn.le
  have hq : (k + r) / k = r / k + 1 := by rw [Nat.add_comm, Nat.add_div_right _ hk]
  have hr : (k + r) % k = r % k := Nat.add_mod_left k r
  have hat : ∀ j, ptr + (j + 1) * k = ptr + k + j * k := fun j => by rw [Nat.succ_mul]; omega
  simp only [bufferChunks, hq, hr, hat, Nat.add_sub_cancel_left, List.range_succ_eq_map]
  simp [Function.comp_def, hat]

theorem length_bufferChunks_pos (m : Memory) (ptr : Nat) {n k : Nat} (hk : 1 ≤ k) (h1 : 1 ≤ n) :
    1 ≤ (bufferChunks m ptr n k).length := by
  rcases Nat.lt_or_ge k n with hn | hn
  · rw [bufferChunks_large m ptr hk hn]
    exact Nat.succ_pos _
  · rw [bufferChunks_small m ptr h1 hn]
    exact Nat.le_refl 1

/-- A buffer's schedule cuts the host bytes into chunks of CHUNK_MAX (R175). -/
theorem bufferChunks_cutInto (m : Memory) (ptr len : Nat) {k : Nat} (hk : 1 ≤ k) :
    CutInto k (bufferChunks m ptr len k) (hostBytes m ptr len) := by
  induction len using chunk_induction hk generalizing ptr with
  | empty =>
    rw [bufferChunks_zero]
    exact cutInto_nil hk
  | last n h1 hn =>
    rw [bufferChunks_small m ptr h1 hn]
    exact cutInto_last (by rwa [length_hostBytes]) (by rwa [length_hostBytes])
  | more n hn ih =>
    have split : hostBytes m ptr n = hostBytes m ptr k ++ hostBytes m (ptr + k) (n - k) := by
      rw [hostBytes_append, Nat.add_sub_cancel' hn.le]
    rw [bufferChunks_large m ptr hk hn, split]
    exact cutInto_cons hk (length_hostBytes m ptr k) (ih (ptr + k))

/-- Settles O55: both schedules cut their bytes into chunks. -/
theorem chunkScheduleLaws : Obligations.ChunkScheduleLaws := by
  constructor
  · intro c pixels
    obtain ⟨hcount, hsize, hjoin⟩ := fillChunks_cutInto c pixels
    exact ⟨by rw [hcount, length_colorBytes]; rfl, hsize, hjoin⟩
  · intro m ptr len k hk
    obtain ⟨hcount, hsize, hjoin⟩ := bufferChunks_cutInto m ptr len hk
    exact ⟨by rw [hcount, length_hostBytes], hsize, hjoin⟩

/-! ## The stream of a drawing request -/

/-- In n steps the stream at SEQ sends the chunks, each in one transfer answered `ok`, and leaves REM at 0 and SEQ past
it. CUR moves for a buffer (entry 16). -/
def Streams (n : Nat) (chunks : List (List Byte)) (rest : List Answer) (s : State) : Prop :=
  ∃ (cur : Word) (draws : Nat), steps n s = .next { s with
    seq := s.seq + 1, rem := 0, cur := cur, freeDraws := draws, answers := rest
    trace := s.trace ++ chunks.map fun bs => .xfer .data bs .ok }

/-- The state after a delivered chunk that is not the stream's last (R144). -/
def afterChunk (bs : List Byte) (rest : List Answer) (rem cur : Word) (draws : Nat) (s : State) : State :=
  { s with
    trace := s.trace ++ [.xfer .data bs .ok], answers := rest, rem := rem, cur := cur, freeDraws := draws }

theorem rem_ne_zero {s : State} (h : 1 ≤ s.rem.toNat) : s.rem ≠ 0 := fun h0 => by simp [h0] at h

section Stream

variable {src : Src} {bs : List Byte} {s : State} {rest : List Answer}

/-- One chunk of a stream, answered `ok` (R144). -/
theorem step_chunk (h : Undisturbed s) (hm : microOp s = some (.streamChunk src)) (h1 : 1 ≤ s.rem.toNat)
    (ht : chunkPastTop src s = false) (hb : chunkBytes src (chunkSize src s) s = bs) (ha : s.answers = .ok :: rest) :
    ∃ (r c : Word) (draws : Nat),
      step s = .next { afterChunk bs rest r c draws s with
        seq := if s.rem.toNat = bs.length then s.seq + 1 else s.seq } ∧
      r.toNat + bs.length = s.rem.toNat ∧
      (src = .mem → s.cur.toNat + bs.length < 4294967296 → c.toNat = s.cur.toNat + bs.length) := by
  have hl : bs.length ≤ s.rem.toNat := by
    rw [← hb, length_chunkBytes]
    exact chunkSize_le src s
  obtain ⟨r, c, draws, e, hr, -, hc⟩ := chunkDone_delivered (src := src) (s := { s with answers := rest }) hl
  have ⟨_, ⟨_, _, hp⟩, _⟩ := h
  refine ⟨r, c, draws, ?_, hr, fun hsrc hlt => (hc hsrc hlt).1⟩
  rw [step_micro h hm, runMicroOp_streamChunk (rem_ne_zero h1) ht hb, chunk_ok hp ha, e, afterChunk]

/-- A stream of no byte: one step, no chunk (R144). -/
theorem streams_empty (h : Undisturbed s) (hm : microOp s = some (.streamChunk src)) (h0 : s.rem = 0) :
    Streams 1 [] s.answers s := by
  have e : step s = .next (advance s) := (step_micro h hm).trans (emptyStreamSendsNothing src s h0)
  refine ⟨s.cur, s.freeDraws, (steps_next (k := 0) e).trans ?_⟩
  simp [advance, ← h0]

/-- A stream whose next chunk is all that is left. -/
theorem streams_last (h : Undisturbed s) (hm : microOp s = some (.streamChunk src)) (h1 : 1 ≤ s.rem.toNat)
    (ht : chunkPastTop src s = false) (hb : chunkBytes src (chunkSize src s) s = bs) (hl : s.rem.toNat = bs.length)
    (ha : s.answers = .ok :: rest) : Streams 1 [bs] rest s := by
  obtain ⟨r, c, draws, e, hr, -⟩ := step_chunk h hm h1 ht hb ha
  obtain rfl : r = 0 := BitVec.eq_of_toNat_eq (Nat.add_eq_right.1 (hr.trans hl))
  rw [if_pos hl] at e
  exact ⟨c, draws, (steps_next (k := 0) e).trans rfl⟩

/-- A chunk, and the stream that goes on after it. -/
theorem streams_cons {n : Nat} {chunks : List (List Byte)} {as : List Answer} {r c : Word} {draws : Nat}
    (e : step s = .next (afterChunk bs as r c draws s)) (run : Streams n chunks rest (afterChunk bs as r c draws s)) :
    Streams (n + 1) (bs :: chunks) rest s := by
  obtain ⟨cur, draws', run⟩ := run
  refine ⟨cur, draws', (steps_next e).trans (run.trans ?_)⟩
  simp [afterChunk]

end Stream

/-- A buffer's stream with the len bytes from ptr still to send. -/
structure BufferLeft (m : Memory) (ptr len k : Nat) (s : State) : Prop where
  undisturbed : Undisturbed s
  op : microOp s = some (.streamChunk .mem)
  mem : s.mem = m
  cap : s.cfg.chunkMax = k
  cur : s.cur.toNat = ptr
  rem : s.rem.toNat = len

theorem chunkSize_bufferLeft {m : Memory} {ptr len k : Nat} {s : State} (h : BufferLeft m ptr len k s) :
    chunkSize .mem s = min len k := by
  rw [chunkSize, chunkCap, h.cap, h.rem]

theorem chunkBytes_bufferLeft {m : Memory} {ptr len k : Nat} {s : State} (h : BufferLeft m ptr len k s) :
    chunkBytes .mem (chunkSize .mem s) s = hostBytes m ptr (min len k) := by
  rw [chunkSize_bufferLeft h, ← h.mem, ← h.cur]
  exact readRange_eq s.mem _ _

/-- A buffer that ends at 2^32 or below has every chunk inside host memory (R70, R77). -/
theorem chunkPastTop_bufferLeft {m : Memory} {ptr len k : Nat} {s : State} (h : BufferLeft m ptr len k s)
    (hend : ptr + len ≤ 4294967296) : chunkPastTop .mem s = false := by
  simp only [chunkPastTop, chunkSize_bufferLeft h, h.cur, decide_eq_false_iff_not]
  omega

/-- The stream of a nonempty buffer, every answer `ok`: its chunk schedule (R175). -/
theorem streams_bufferChunks {m : Memory} {k : Nat} (hk : 1 ≤ k) (rest : List Answer) (len : Nat) :
    ∀ (ptr : Nat) (s : State), BufferLeft m ptr len k s → 1 ≤ len → ptr + len ≤ 4294967296 →
      s.answers = List.replicate (bufferChunks m ptr len k).length .ok ++ rest →
      Streams (bufferChunks m ptr len k).length (bufferChunks m ptr len k) rest s := by
  induction len using chunk_induction hk with
  | empty => omega
  | last n h1 hn =>
    intro ptr s h _ hend ha
    have hb := chunkBytes_bufferLeft h
    rw [Nat.min_eq_left hn] at hb
    rw [bufferChunks_small m ptr h1 hn] at ha ⊢
    exact streams_last h.undisturbed h.op (h.rem ▸ h1) (chunkPastTop_bufferLeft h hend) hb
      (by rw [h.rem, length_hostBytes]) ha
  | more n hn ih =>
    intro ptr s h h1 hend ha
    have hb := chunkBytes_bufferLeft h
    rw [Nat.min_eq_right hn.le] at hb
    rw [bufferChunks_large m ptr hk hn] at ha ⊢
    obtain ⟨r, c, draws, e, hr, hc⟩ :=
      step_chunk h.undisturbed h.op (h.rem ▸ h1) (chunkPastTop_bufferLeft h hend) hb ha
    rw [length_hostBytes, h.rem] at hr
    rw [length_hostBytes, h.cur] at hc
    rw [length_hostBytes, h.rem, if_neg (by omega)] at e
    refine streams_cons e (ih (ptr + k) _ ?_ (by omega) (by omega) rfl)
    exact ⟨h.undisturbed, h.op, h.mem, h.cap, hc rfl (by omega), Nat.eq_sub_of_add_eq hr⟩

/-- The stream of any buffer, every answer `ok`: LEN = 0 takes one step (R144, R175). -/
theorem streams_buffer {m : Memory} {ptr len k : Nat} {s : State} {rest : List Answer} (hk : 1 ≤ k)
    (h : BufferLeft m ptr len k s) (hend : ptr + len ≤ 4294967296)
    (ha : s.answers = List.replicate (bufferChunks m ptr len k).length .ok ++ rest) :
    Streams (max 1 (bufferChunks m ptr len k).length) (bufferChunks m ptr len k) rest s := by
  rcases Nat.eq_zero_or_pos len with rfl | h1
  · rw [bufferChunks_zero] at ha ⊢
    have h0 : s.rem = 0 := BitVec.eq_of_toNat_eq h.rem
    obtain rfl : s.answers = rest := ha
    exact streams_empty h.undisturbed h.op h0
  · rw [Nat.max_eq_right (length_bufferChunks_pos m ptr hk h1)]
    exact streams_bufferChunks hk rest len ptr s h h1 hend ha

/-! ## A drawing request from SEQ 0 to its response -/

section Draw

variable {o : Op} {src : Src} {s : State}

/-- The state in which a drawing request's stream begins, at SEQ 12 (R143, R160). -/
def atStream (as : List Answer) (s : State) : State :=
  { s with
    seq := 12, dc := some .data, answers := as, trace := s.trace ++ windowEvents s.x0 s.y0 s.x1 s.y1 ++ [.dc .data] }

/-- A drawing request's micro-operation after the window-set (R171, R174, R177). -/
theorem microOp_after_window {n : Nat} (hsrc : streamSource o = some src) (ho : s.op = opCode o) (hn : s.seq = 11 + n) :
    microOp s = [.streamBegin, .streamChunk src, .streamEnd, .respond none][n]? := by
  rw [microOp_eq ho, microProgram_draw s hsrc, hn, drawProgram, List.getElem?_append_right (Nat.le_add_right 11 n)]
  exact congrArg _ (Nat.add_sub_cancel_left 11 n)

/-- The window-set and streamBegin, every answer `ok`. -/
theorem steps_atStream (h : Undisturbed s) (hsrc : streamSource o = some src) (ho : s.op = opCode o) (hq : s.seq = 0)
    {as : List Answer} (ha : s.answers = List.replicate 11 .ok ++ as) : steps 12 s = .next (atStream as s) := by
  have code : s.op = 3 ∨ s.op = 4 ∨ s.op = 5 := by
    rcases draws_of_streamSource hsrc with rfl | rfl | rfl
    · exact .inl ho
    · exact .inr (.inl ho)
    · exact .inr (.inr ho)
  obtain ⟨hc, hready, hport, hhost⟩ := h
  obtain ⟨window, -⟩ := windowSetRuns s as hc hready hport hhost code hq ha
  rw [steps_add (a := 11) (b := 1) window]
  refine (steps_next (k := 0) (step_streamBegin ?_ ?_)).trans rfl
  · exact ⟨hc, hready, hport, hhost⟩
  · exact microOp_after_window hsrc ho (n := 0) rfl

theorem undisturbed_atStream (h : Undisturbed s) (as : List Answer) : Undisturbed (atStream as s) := h

theorem microOp_atStream (hsrc : streamSource o = some src) (ho : s.op = opCode o) (as : List Answer) :
    microOp (atStream as s) = some (.streamChunk src) := microOp_after_window hsrc ho (n := 1) rfl

/-- The whole run of a begun drawing request, every answer `ok`, from the run of its stream. -/
theorem steps_draw {n : Nat} {chunks : List (List Byte)} {rest : List Answer} (h : Undisturbed s)
    (hsrc : streamSource o = some src) (ho : s.op = opCode o) (hq : s.seq = 0)
    (ha : s.answers = List.replicate (11 + chunks.length) .ok ++ rest)
    (stream : Streams n chunks rest (atStream (List.replicate chunks.length .ok ++ rest) s)) :
    ∃ (cur : Word) (draws : Nat), steps (14 + n) s = .next (respond .success { s with
      seq := 14, dc := some .cmd, rem := 0, cur := cur, freeDraws := draws, answers := rest
      trace := s.trace ++ windowEvents s.x0 s.y0 s.x1 s.y1 ++ streamEvents chunks }) := by
  obtain ⟨cur, draws, stream⟩ := stream
  rw [List.replicate_add, List.append_assoc] at ha
  refine ⟨cur, draws, ?_⟩
  rw [show 14 + n = 12 + (n + 2) by omega, steps_add (steps_atStream h hsrc ho hq ha), steps_add stream]
  refine (steps_next (k := 1) (step_streamEnd ?_ ?_)).trans
    ((steps_next (k := 0) (step_respond (lc := none) ?_ ?_)).trans ?_)
  · exact h
  · exact microOp_after_window hsrc ho (n := 2) rfl
  · exact h
  · exact microOp_after_window hsrc ho (n := 3) rfl
  · simp [finish, streamEnd, advance, driveDc, emit, atStream, streamEvents]

end Draw

section Window

variable {x y w h x1 y1 : Half}

theorem ofNat_corner (hx : x1.toNat + 1 = x.toNat + w.toNat) : BitVec.ofNat 16 (corner x w) = x1 := by
  rw [corner, show x.toNat + w.toNat - 1 = x1.toNat by omega, BitVec.ofNat_toNat, BitVec.setWidth_eq]

theorem checkWindow_of_corners (hw : 1 ≤ w.toNat) (hh : 1 ≤ h.toNat) (hx : x1.toNat + 1 = x.toNat + w.toNat)
    (hy : y1.toNat + 1 = y.toNat + h.toNat) : checkWindow x y w h = none :=
  checkWindow_none.2 ⟨hw, hh, hx ▸ x1.isLt, hy ▸ y1.isLt⟩

end Window

/-- Settles O53: acceptance latches the fill, and its stream is R173's schedule. -/
theorem rectDrawRuns : Obligations.RectDrawRuns := by
  intro x y w h c x1 y1 s rest hidle hlc hw hh hx hy ht ha
  have ⟨_, hf, hb, _⟩ := hidle
  have begun : exec (.rectDraw x y w h c) s = .next (latchRect x y w h c (beginRequest .rectDraw s)) := by
    rw [exec_rectDraw, checkRect_none (checkWindow_of_corners hw hh hx hy) ht, accept_begins hf hb (by rw [hlc]; rfl)]
  have undisturbed : Undisturbed (latchRect x y w h c (beginRequest .rectDraw s)) :=
    undisturbed_latch_beginRequest hidle (fun _ => rfl) .rectDraw
  have total : (BitVec.ofNat 32 (totalBytes w h)).toNat = 2 * (w.toNat * h.toNat) := by
    rw [BitVec.toNat_ofNat, totalBytes, Nat.mod_eq_of_lt ht, Nat.mul_assoc]
  have stream := steps_fill c (w.toNat * h.toNat) _ rest (undisturbed_atStream undisturbed _) (Nat.mul_pos hw hh)
    (microOp_atStream (o := .rectDraw) rfl rfl _) (fillPattern_toList c) total rfl
  obtain ⟨cur, draws, run⟩ := steps_draw (o := .rectDraw) undisturbed rfl rfl rfl ha ⟨_, _, stream⟩
  refine ⟨_, _, begun, run, ?_, rfl, rfl, hlc, hf, rfl, rfl, rfl, rfl⟩
  rw [← ofNat_corner hx, ← ofNat_corner hy]
  rfl

/-- Settles O54: acceptance latches the buffer, and its stream is R175's schedule, one empty step where LEN = 0. -/
theorem bufferDrawRuns : Obligations.BufferDrawRuns := by
  intro x y w h x1 y1 p l s rest chunks hidle hlc hw hh hx hy hend hlen hchunks ha
  have ⟨hc, hf, hb, _⟩ := hidle
  have begun : exec (.bufferDraw x y w h p l) s = .next (latchBuffer x y w h p l (beginRequest .bufferDraw s)) := by
    rw [exec_bufferDraw, checkBuffer_none (checkWindow_of_corners hw hh hx hy) hlen hend,
      accept_begins hf hb (by rw [hlc]; rfl)]
  have undisturbed : Undisturbed (latchBuffer x y w h p l (beginRequest .bufferDraw s)) :=
    undisturbed_latch_beginRequest hidle (fun _ => rfl) .bufferDraw
  have stream : Streams (max 1 chunks.length) chunks rest
      (atStream (List.replicate chunks.length .ok ++ rest) (latchBuffer x y w h p l (beginRequest .bufferDraw s))) := by
    subst hchunks
    exact streams_buffer (le_trans (by decide) (of_decide_eq_true hc))
      ⟨undisturbed_atStream undisturbed _, microOp_atStream (o := .bufferDraw) rfl rfl _, rfl, rfl, rfl, rfl⟩ hend rfl
  obtain ⟨cur, draws, run⟩ := steps_draw (o := .bufferDraw) undisturbed rfl rfl rfl ha stream
  refine ⟨_, _, begun, run, ?_, rfl, rfl, hlc, hf, rfl, rfl, rfl, rfl⟩
  rw [← ofNat_corner hx, ← ofNat_corner hy]
  rfl

/-- Settles O56: a pixel's stream is one chunk of the colour's two bytes, which is the fill schedule of one pixel. -/
theorem pixelDrawRuns : Obligations.PixelDrawRuns := by
  intro x y c s rest hidle hlc ha
  have ⟨_, hf, hb, _⟩ := hidle
  have undisturbed : Undisturbed (latchPixel x y c (beginRequest .pixelDraw s)) :=
    undisturbed_latch_beginRequest hidle (fun _ => rfl) .pixelDraw
  have stream : Streams 1 [[hi c, lo c]] rest (atStream (.ok :: rest) (latchPixel x y c (beginRequest .pixelDraw s))) :=
    streams_last (undisturbed_atStream undisturbed _) (microOp_atStream (o := .pixelDraw) rfl rfl _) Nat.one_le_ofNat
      rfl rfl rfl rfl
  obtain ⟨cur, draws, run⟩ :=
    steps_draw (o := .pixelDraw) (chunks := [[hi c, lo c]]) undisturbed rfl rfl rfl ha stream
  obtain ⟨u0, u, rectBegun, rectRun, rectTrace, -⟩ :=
    rectDrawRuns x y 1 1 c x y s rest hidle hlc (by decide) (by decide) rfl rfl (by decide) ha
  exact ⟨_, _, u0, u, pixelDrawAccepted x y c s hf hb hlc, run, rectBegun, rectRun, rfl, rectTrace, rfl, rfl, hlc, hf,
    rfl, rfl⟩

end Sys2Proof.Proofs
end

section
/-! PROOFS. The waits of INIT (R202, R203, R304): what the scan of TRACE and the registers say of each other while the
running request stays at a micro-operation, goes on past it, begins or is over; and so through every move. -/

namespace Sys2Proof.Proofs

open Sys2Proof.Machine Sys2Proof.Safety Sys2Proof.Laws

/-! ## The scan and the registers -/

/-- What the wait invariant says of a state, `w` being the scan of its TRACE. -/
structure WaitAgrees (w : WaitScan) (s : State) : Prop where
  kept : w.kept = true
  owed : ∀ ms, w.owed = some ms → s.busy = true ∧ s.pending = none ∧ microOp s = some (.wait ms)
  last : ∀ o b, s.busy = true → s.op = opCode o → lastCommand ((microProgram o s).take s.seq) = some b →
    w.last = some b
  underWay : initUnderWay s → w.inInit = true
  inInit : w.inInit = true →
    initUnderWay s ∨ (s.lc = .initFailed ∧ ¬(s.busy = true ∧ s.op = opCode .uninit ∧ s.seq = 1))

theorem waitInv_iff (s : State) : WaitInv s ↔ RequestInv s ∧ WaitAgrees (waitScan s.trace) s := by
  constructor
  · rintro ⟨hr, kept, owed, last, underWay, inInit⟩
    exact ⟨hr, kept, owed, last, underWay, inInit⟩
  · rintro ⟨hr, kept, owed, last, underWay, inInit⟩
    exact ⟨hr, kept, owed, last, underWay, inInit⟩

theorem waitScan_snoc (t : List Event) (e : Event) : waitScan (t ++ [e]) = (waitScan t).event e := waitScan_append t [e]

/-- Where nothing is owed every event keeps what was owed before. -/
theorem event_kept {w : WaitScan} (hk : w.kept = true) (ho : w.owed = none) (e : Event) : (w.event e).kept = true := by
  simp [WaitScan.event, hk, ho]

/-- A wait is owed at its micro-operation only. -/
theorem WaitAgrees.owed_none {w : WaitScan} {s : State} {m : MicroOp} (h : WaitAgrees w s) (hm : microOp s = some m)
    (hw : ∀ ms, m ≠ .wait ms) : w.owed = none := by
  refine Option.eq_none_iff_forall_ne_some.2 fun ms ho => ?_
  obtain ⟨-, -, hwait⟩ := h.owed ms ho
  exact hw ms (Option.some.inj (hm.symm.trans hwait))

/-- No wait is owed while a call is outstanding. -/
theorem WaitAgrees.owed_none_of_pending {w : WaitScan} {s : State} {p : Pending} (h : WaitAgrees w s)
    (hp : s.pending = some p) : w.owed = none := by
  refine Option.eq_none_iff_forall_ne_some.2 fun ms ho => ?_
  obtain ⟨-, hnone, -⟩ := h.owed ms ho
  rw [hp] at hnone
  cases hnone

/-- In a running INIT the scan says that its commands are under way from its acquisition to its DISPON. -/
theorem WaitAgrees.inInit_iff {w : WaitScan} {s : State} (h : WaitAgrees w s) (hb : s.busy = true)
    (ho : s.op = opCode .init) (hl : lifecycleOk .init s.lc = true) : w.inInit = true ↔ 1 ≤ s.seq ∧ s.seq ≤ 24 := by
  have hlc : s.lc = .off := by simpa [lifecycleOk] using hl
  constructor
  · intro hi
    obtain ⟨-, -, hseq⟩ | ⟨hfailed, -⟩ := h.inInit hi
    · exact hseq
    · rw [hlc] at hfailed
      cases hfailed
  · exact fun hseq => h.underWay ⟨hb, ho, hseq⟩

/-- In another request the scan says so only of an INIT that aborted and still holds the transport. -/
theorem WaitAgrees.failed_of_inInit {w : WaitScan} {s : State} {o : Op} (h : WaitAgrees w s) (ho : s.op = opCode o)
    (hi : o ≠ .init) (hw : w.inInit = true) : s.lc = .initFailed := by
  obtain ⟨-, hinit, -⟩ | ⟨hfailed, -⟩ := h.inInit hw
  · exact absurd (opCode_injective (ho.symm.trans hinit)) hi
  · exact hfailed

/-! ## The request stays at its micro-operation, or is over -/

/-- The request stays where it is: nothing is owed, and the last command and INIT are as before. -/
theorem WaitAgrees.stays {w w' : WaitScan} {s t : State} (h : WaitAgrees w s) (hf : BlockFrame s t)
    (hb : t.busy = s.busy) (hlc : t.lc = s.lc) (hseq : t.seq = s.seq) (hk : w'.kept = true) (ho : w'.owed = none)
    (hl : w'.last = w.last) (hi : w'.inInit = w.inInit) : WaitAgrees w' t where
  kept := hk
  owed := by simp [ho]
  last o b := by rw [hb, hf.op, hseq, hf.program_eq, hl]; exact h.last o b
  underWay := by rw [initUnderWay, hb, hf.op, hseq, hi]; exact h.underWay
  inInit := by rw [initUnderWay, hb, hf.op, hseq, hlc, hi]; exact h.inInit

/-- With no request running the scan may say that INIT is under way only after an abort. -/
theorem WaitAgrees.idle {w : WaitScan} {s : State} (hb : s.busy = false) (hk : w.kept = true) (ho : w.owed = none)
    (hi : w.inInit = true → s.lc = .initFailed) : WaitAgrees w s where
  kept := hk
  owed := by simp [ho]
  last _ _ hbusy := by rw [hb] at hbusy; cases hbusy
  underWay := by rintro ⟨hbusy, -⟩; rw [hb] at hbusy; cases hbusy
  inInit hw := .inr ⟨hi hw, by simp [hb]⟩

/-- A request begins with nothing owed and nothing sent. -/
theorem WaitAgrees.accepted {w : WaitScan} {s t : State} (h : WaitAgrees w s) (hb : s.busy = false)
    (hseq : t.seq = 0) (hlc : t.lc = s.lc) : WaitAgrees w t where
  kept := h.kept
  owed ms hms := by
    obtain ⟨hbusy, -⟩ := h.owed ms hms
    rw [hb] at hbusy
    cases hbusy
  last _ _ _ _ hc := by rw [hseq, List.take_zero] at hc; cases hc
  underWay := by rintro ⟨-, -, h1, -⟩; omega
  inInit hw := by
    obtain ⟨hbusy, -⟩ | ⟨hfailed, -⟩ := h.inInit hw
    · rw [hb] at hbusy
      cases hbusy
    · exact .inr ⟨hlc.trans hfailed, by simp [hseq]⟩

/-! ## The request goes on past a micro-operation -/

/-- The last command sent once a micro-operation is complete. -/
def lastAfterOp (w : WaitScan) : MicroOp → Option Byte
  | .writeCommand b => some b
  | _ => w.last

/-- Is INIT between its acquisition and its DISPON once a micro-operation is complete? -/
def initAfterOp (w : WaitScan) : MicroOp → Bool
  | .acquire => true
  | .release => false
  | .writeCommand b => w.inInit && b != cmdCode .dispon
  | _ => w.inInit

/-- The last command before the next SEQ. -/
theorem lastCommand_take_succ {l : List MicroOp} {n : Nat} {m : MicroOp} {b : Byte} {w : WaitScan} (hm : l[n]? = some m)
    (h : lastCommand (l.take n) = some b → w.last = some b) (hb : lastCommand (l.take (n + 1)) = some b) :
    lastAfterOp w m = some b := by
  rw [List.take_add_one, hm, Option.toList, lastCommand_snoc] at hb
  cases m with
  | writeCommand c => exact hb
  | _ => exact h hb

/-- In INIT the commands are under way past its acquisition and up to its DISPON (R202). -/
theorem initAfterOp_init {w : WaitScan} {s : State} {n : Nat} {m : MicroOp}
    (hm : (microProgram .init s)[n]? = some m) (hw : w.inInit = true ↔ 1 ≤ n ∧ n ≤ 24) :
    initAfterOp w m = true ↔ n + 1 ≤ 24 := by
  obtain ⟨hacquire, -, hdispon, hrelease, -⟩ := init_positions hm
  cases m with
  | acquire => simp [initAfterOp, hacquire.1 rfl]
  | release => exact absurd rfl hrelease
  | writeCommand b =>
    have hn : n ≠ 0 := fun h0 => nomatch hacquire.2 h0
    rw [MicroOp.writeCommand.injEq] at hdispon
    simp only [initAfterOp, Bool.and_eq_true, bne_iff_ne, ne_eq, hw, hdispon]
    omega
  | _ =>
    have hn : n ≠ 0 := fun h0 => nomatch hacquire.2 h0
    have hn' : n ≠ 24 := fun h0 => nomatch hdispon.2 h0
    simp only [initAfterOp, hw]
    omega

/-- A micro-operation but an acquisition says so only where it was said before, and a release does not. -/
theorem inInit_of_initAfterOp {w : WaitScan} {m : MicroOp} (ha : m ≠ .acquire) (h : initAfterOp w m = true) :
    w.inInit = true ∧ m ≠ .release := by
  cases m with
  | acquire => exact absurd rfl ha
  | release => cases h
  | writeCommand b =>
    rw [initAfterOp, Bool.and_eq_true] at h
    exact ⟨h.1, nofun⟩
  | _ => exact ⟨h, nofun⟩

/-- The request goes on: SEQ advances, and what is owed then is the next micro-operation. -/
theorem WaitAgrees.goesOn {w w' : WaitScan} {s t : State} {m : MicroOp} (h : WaitAgrees w s) (hr : RequestInv s)
    (hb : s.busy = true) (hm : microOp s = some m) (hf : BlockFrame s t) (htb : t.busy = true) (hlc : t.lc = s.lc)
    (hseq : t.seq = s.seq + 1) (hk : w'.kept = true)
    (ho : ∀ ms, w'.owed = some ms → t.pending = none ∧ microOp t = some (.wait ms))
    (hl : w'.last = lastAfterOp w m) (hi : w'.inInit = initAfterOp w m) : WaitAgrees w' t := by
  obtain ⟨o, hop, -, hok, -⟩ := requestInv_running hr hb
  have hpos := (microOp_eq hop).symm.trans hm
  have init : (initUnderWay t → w'.inInit = true) ∧ (w'.inInit = true →
      initUnderWay t ∨ (t.lc = .initFailed ∧ ¬(t.busy = true ∧ t.op = opCode .uninit ∧ t.seq = 1))) := by
    rw [initUnderWay, hf.op, hseq, hlc, hi]
    by_cases hinit : o = .init
    · subst hinit
      rw [initAfterOp_init hpos (h.inInit_iff hb hop hok)]
      exact ⟨fun ⟨_, _, _, hle⟩ => hle, fun hle => .inl ⟨htb, hop, Nat.le_add_left 1 _, hle⟩⟩
    · have hacquire : m ≠ .acquire := by
        rintro rfl
        exact hinit (acquire_position hpos).1
      refine ⟨fun ⟨_, hop', _⟩ => absurd (opCode_injective (hop.symm.trans hop')) hinit, fun hw => .inr ?_⟩
      obtain ⟨hw, hrelease⟩ := inInit_of_initAfterOp hacquire hw
      refine ⟨h.failed_of_inInit hop hinit hw, ?_⟩
      rintro ⟨-, hop', hn⟩
      obtain rfl := opCode_injective (hop.symm.trans hop')
      rw [Nat.succ.inj hn] at hpos
      exact hrelease (Option.some.inj hpos.symm)
  obtain ⟨underWay, inInit⟩ := init
  refine ⟨hk, fun ms hms => ⟨htb, ho ms hms⟩, fun o b _ hop hc => ?_, underWay, inInit⟩
  rw [hf.op] at hop
  rw [hf.program_eq, hseq] at hc
  rw [hl]
  exact lastCommand_take_succ ((microOp_eq hop).symm.trans hm) (h.last o b hb hop) hc

/-- The same where the micro-operation emits nothing more. -/
theorem WaitAgrees.goesOn_silent {w : WaitScan} {s t : State} {m : MicroOp} (h : WaitAgrees w s) (hr : RequestInv s)
    (hb : s.busy = true) (hm : microOp s = some m) (hf : BlockFrame s t) (htb : t.busy = true) (hlc : t.lc = s.lc)
    (hseq : t.seq = s.seq + 1) (ho : w.owed = none) (hl : lastAfterOp w m = w.last) (hi : initAfterOp w m = w.inInit) :
    WaitAgrees w t :=
  h.goesOn hr hb hm hf htb hlc hseq h.kept (by simp [ho]) hl.symm hi.symm

/-! ## Answers of transfers -/

/-- A unit's event leaves the last command its micro-operation leaves. -/
theorem event_last_unit (w : WaitScan) (l : Level) (b : Byte) (r : Answer) :
    (w.event (.xfer l [b] r)).last = lastAfterOp w (unitOp l b) := by cases l <;> rfl

/-- A unit's event leaves INIT where its micro-operation leaves it. -/
theorem event_inInit_unit (w : WaitScan) (l : Level) (b : Byte) (r : Answer) :
    (w.event (.xfer l [b] r)).inInit = initAfterOp w (unitOp l b) := by cases l <;> rfl

/-- While the scan says that INIT is under way, no other request sends a unit: only UNINIT and DISPLAY run in
INIT_FAILED (R121), and they send none. -/
theorem WaitAgrees.init_of_unit {w : WaitScan} {s : State} {o : Op} {l : Level} {b : Byte} (h : WaitAgrees w s)
    (ho : s.op = opCode o) (hl : lifecycleOk o s.lc = true) (hm : (microProgram o s)[s.seq]? = some (unitOp l b))
    (hw : w.inInit = true) : o = .init := by
  by_contra hi
  rw [h.failed_of_inInit ho hi hw] at hl
  have hmem := List.mem_of_getElem? hm
  cases o with
  | init => exact hi rfl
  | uninit => cases l <;> simp [microProgram, unitOp] at hmem
  | display => cases l <;> simp [microProgram, unitOp] at hmem
  | _ => cases hl

/-- What a delivered unit owes is the next micro-operation. -/
theorem WaitAgrees.unit_owes {w : WaitScan} {s : State} {o : Op} {l : Level} {b : Byte} {ms : Nat} (h : WaitAgrees w s)
    (hb : s.busy = true) (ho : s.op = opCode o) (hl : lifecycleOk o s.lc = true)
    (hm : (microProgram o s)[s.seq]? = some (unitOp l b)) (hw : w.owes (.xfer l [b] .ok) = some ms) :
    (microProgram o s)[s.seq + 1]? = some (.wait ms) := by
  cases l with
  | cmd => exact command_owes hm (h.init_of_unit ho hl hm) hw
  | data => exact data_owes hm (.inl ⟨b, rfl⟩) (fun c => h.last o c hb ho) hw

/-- A delivered chunk owes nothing: streamEnd comes after it, and no wait. -/
theorem WaitAgrees.chunk_owes {w : WaitScan} {s : State} {o : Op} {src : Src} (h : WaitAgrees w s) (hb : s.busy = true)
    (ho : s.op = opCode o) (hm : microOp s = some (.streamChunk src)) (bs : List Byte) :
    w.owes (.xfer .data bs .ok) = none := by
  refine Option.eq_none_iff_forall_ne_some.2 fun ms hw => ?_
  obtain ⟨-, hsrc⟩ := streamSource_of_chunk ho hm
  have hnext := data_owes ((microOp_eq ho).symm.trans hm) (.inr ⟨src, rfl⟩) (fun c => h.last o c hb ho) hw
  exact microOp_ne_wait (s := advance s) hsrc ho ms ((microOp_eq (s := advance s) ho).trans hnext)

/-- A failed transfer owes nothing: INIT goes on, or the request is over (R151). -/
theorem WaitAgrees.failed {w : WaitScan} {s : State} {m : MicroOp} {e : Event} (h : WaitAgrees w s) (hr : RequestInv s)
    (hb : s.busy = true) (hm : microOp s = some m) (ha : m ≠ .acquire) (hk : (w.event e).kept = true)
    (ho : (w.event e).owed = none) (hl : (w.event e).last = lastAfterOp w m)
    (hi : (w.event e).inInit = initAfterOp w m) (as : List Answer) :
    WaitAgrees (w.event e) (transferFailed (emit e { s with pending := none, answers := as })) := by
  have hf : BlockFrame s (transferFailed (emit e { s with pending := none, answers := as })) :=
    (BlockFrame.of_eq [e] [] (by simp [emit])).trans (frame_transferFailed _)
  obtain ⟨-, ht⟩ | ⟨-, ht⟩ | ⟨hother, ht⟩ := transferFailed_cases (emit e { s with pending := none, answers := as })
  · rw [ht] at hf ⊢
    exact h.goesOn hr hb hm hf hb rfl rfl hk (by simp [ho]) hl hi
  · rw [ht]
    exact .idle rfl hk ho fun _ => rfl
  · rw [ht]
    refine .idle rfl hk ho fun hw => ?_
    obtain ⟨o, hop, -⟩ := requestInv_running hr hb
    rw [hi] at hw
    exact h.failed_of_inInit hop (fun e => hother (e ▸ hop)) (inInit_of_initAfterOp ha hw).1

/-! ## Moves -/

/-- A wait made is the one owed, if any is. -/
theorem WaitAgrees.wait_kept {w : WaitScan} {s : State} {ms : Nat} (h : WaitAgrees w s)
    (hm : microOp s = some (.wait ms)) : (w.event (.wait ms)).kept = true := by
  cases ho : w.owed with
  | none => exact event_kept h.kept ho _
  | some ms' =>
    obtain ⟨-, -, hm'⟩ := h.owed ms' ho
    obtain rfl : ms = ms' := by simpa using hm.symm.trans hm'
    simp [WaitScan.event, h.kept, ho]

/-- The response: an INIT that is over in READY is under way no more, nor is one whose transport UNINIT released. -/
theorem WaitAgrees.responded {w : WaitScan} {s : State} {lc : Option Lc} (h : WaitAgrees w s) (hr : RequestInv s)
    (hb : s.busy = true) (hm : microOp s = some (.respond lc)) : WaitAgrees w (finish lc s) := by
  refine .idle (by cases lc <;> rfl) h.kept (h.owed_none hm nofun) fun hw => ?_
  obtain ⟨o, ho, -, hok, -⟩ := requestInv_running hr hb
  have hpos := (microOp_eq ho).symm.trans hm
  obtain ⟨rfl, -, rfl⟩ | ⟨rfl, hn, rfl⟩ | ⟨hi, -, rfl⟩ := respond_position hpos
  · have hseq := (h.inInit_iff hb ho hok).1 hw
    have hlast := (init_positions hpos).2.1.1 rfl
    omega
  · obtain ⟨-, hinit, -⟩ | ⟨-, hnot⟩ := h.inInit hw
    · cases opCode_injective (ho.symm.trans hinit)
    · exact absurd ⟨hb, ho, hn⟩ hnot
  · exact h.failed_of_inInit ho hi hw

/-- A refused acquisition ends INIT before it is under way (R147). -/
theorem WaitAgrees.refused {w : WaitScan} {s : State} (h : WaitAgrees w s) (hr : RequestInv s)
    (hp : s.pending = some .acquire) (as : List Answer) :
    WaitAgrees (w.event (.acquire .err)) (acquireDone .err { s with pending := none, answers := as }) := by
  obtain ⟨ho, hok, hn⟩ := init_of_acquire hr hp
  refine .idle rfl (event_kept h.kept (h.owed_none_of_pending hp) _) rfl fun hw => ?_
  have hseq := (h.inInit_iff (busy_of_pending hr hp) ho hok).1 hw
  omega

/-- An answered unit: what it owes is what comes next. -/
theorem WaitAgrees.unitAnswered {w : WaitScan} {s : State} {l : Level} {b : Byte} (h : WaitAgrees w s)
    (hr : RequestInv s) (hp : s.pending = some (.unit l b)) (r : Answer) (as : List Answer) :
    WaitAgrees (w.event (.xfer l [b] r)) (unitDone l b r { s with pending := none, answers := as }) := by
  have hb := busy_of_pending hr hp
  have hm : microOp s = some (unitOp l b) := microOp_of_pending hr hp
  have hk := event_kept h.kept (h.owed_none_of_pending hp) (.xfer l [b] r)
  cases r with
  | ok =>
    obtain ⟨o, ho, -, hok, -⟩ := requestInv_running hr hb
    have hf : BlockFrame s (unitDone l b .ok { s with pending := none, answers := as }) :=
      (BlockFrame.of_eq [] [] (by simp)).trans (frame_unitDone _ _ _ _)
    refine h.goesOn hr hb hm hf hb rfl rfl hk (fun ms hw => ⟨rfl, ?_⟩) (event_last_unit w l b .ok)
      (event_inInit_unit w l b .ok)
    have hnext := h.unit_owes hb ho hok ((microOp_eq ho).symm.trans hm) hw
    exact (microOp_eq (hf.op.trans ho)).trans ((congrArg (·[s.seq + 1]?) (hf.program_eq o)).trans hnext)
  | err =>
    exact h.failed hr hb hm (by cases l <;> exact nofun) hk (owes_err w l [b]) (event_last_unit w l b .err)
      (event_inInit_unit w l b .err) as

/-- An answered chunk: the stream goes on or ends, with nothing owed. -/
theorem WaitAgrees.chunkAnswered {w : WaitScan} {s : State} {src : Src} {bs : List Byte} (h : WaitAgrees w s)
    (hr : RequestInv s) (hp : s.pending = some (.chunk src bs)) (r : Answer) (as : List Answer) :
    WaitAgrees (w.event (.xfer .data bs r)) (chunkDone src bs r { s with pending := none, answers := as }) := by
  have hb := busy_of_pending hr hp
  have hm : microOp s = some (.streamChunk src) := microOp_of_pending hr hp
  have hk := event_kept h.kept (h.owed_none_of_pending hp) (.xfer .data bs r)
  have hl : (w.event (.xfer .data bs r)).last = w.last := lastAfter_data w bs r
  have hi : (w.event (.xfer .data bs r)).inInit = w.inInit := initAfter_data w bs r
  cases r with
  | ok =>
    obtain ⟨o, ho, -⟩ := requestInv_running hr hb
    have hnone : (w.event (.xfer .data bs .ok)).owed = none := h.chunk_owes hb ho hm bs
    have hf : BlockFrame s (chunkDone src bs .ok { s with pending := none, answers := as }) :=
      (BlockFrame.of_eq [] [] (by simp)).trans (frame_chunkDone _ _ _ _)
    rw [chunkDone_ok] at hf ⊢
    by_cases hrem : s.rem.toNat - bs.length = 0
    · exact h.goesOn hr hb hm hf hb rfl (if_pos hrem) hk (by simp [hnone]) hl hi
    · exact h.stays hf rfl rfl (if_neg hrem) hk hnone hl hi
  | err => exact h.failed hr hb hm nofun hk (owes_err w .data bs) hl hi as

theorem waitInv_move {s t : State} (h : WaitInv s) (hm : Move s t) : WaitInv t := by
  rw [waitInv_iff] at h ⊢
  obtain ⟨hr, h⟩ := h
  refine ⟨requestInv_move hr hm, ?_⟩
  have appended : ∀ e, t.trace = s.trace ++ [e] → WaitAgrees ((waitScan s.trace).event e) t →
      WaitAgrees (waitScan t.trace) t := by
    intro e ht he
    rwa [ht, waitScan_snoc]
  have lineDriven : ∀ l, t.trace = s.trace ++ [.dc l] → (waitScan s.trace).owed = none →
      WaitAgrees (waitScan s.trace) t → WaitAgrees (waitScan t.trace) t := by
    intro l ht ho he
    refine appended (.dc l) ht ?_
    rwa [waitEvent_dc _ l ho]
  cases hm with
  | reset => exact .idle rfl rfl rfl nofun
  | outside => exact ⟨h.kept, h.owed, h.last, h.underWay, h.inInit⟩
  | accepted o f hb hl hf =>
    rw [hf]
    exact h.accepted hb rfl rfl
  | unitCalled l b hb hm =>
    have ho := h.owed_none hm (by cases l <;> exact nofun)
    exact lineDriven l rfl ho (h.stays (.of_eq [.dc l] [] (by simp [driveDc, emit])) rfl rfl rfl h.kept ho rfl rfl)
  | chunkCalled src hb hm =>
    exact h.stays (.of_eq [] [] (by simp)) rfl rfl rfl h.kept (h.owed_none hm nofun) rfl rfl
  | waitCalled ms hb hm =>
    exact appended (.wait ms) rfl
      (h.stays (.of_eq [.wait ms] [] (by simp [emit])) rfl rfl rfl (h.wait_kept hm) rfl rfl rfl)
  | acquireCalled hb hm =>
    exact h.stays (.of_eq [] [] (by simp)) rfl rfl rfl h.kept (h.owed_none hm nofun) rfl rfl
  | streamBegun hp hb hm =>
    have ho := h.owed_none hm nofun
    exact lineDriven .data rfl ho
      (h.goesOn_silent hr hb hm ((frame_driveDc _ s).trans (frame_advance _)) hb rfl rfl ho rfl rfl)
  | streamEmpty src hp hb hm =>
    exact h.goesOn_silent hr hb hm (frame_advance s) hb rfl rfl (h.owed_none hm nofun) rfl rfl
  | streamEnded hp hb hm =>
    have ho := h.owed_none hm nofun
    exact lineDriven .cmd rfl ho
      (h.goesOn_silent hr hb hm ((frame_driveDc _ s).trans (frame_advance _)) hb rfl rfl ho rfl rfl)
  | released hp hb hm =>
    exact appended .release rfl
      (h.goesOn hr hb hm ((frame_emit _ s).trans (frame_advance _)) hb rfl rfl
        (event_kept h.kept (h.owed_none hm nofun) _) nofun rfl rfl)
  | responded lc hp hb hm =>
    have ht : (finish lc s).trace = s.trace := by cases lc <;> rfl
    rw [ht]
    exact h.responded hr hb hm
  | acquireAnswered r rest hp =>
    have hb := busy_of_pending hr hp
    cases r with
    | ok =>
      exact appended (.acquire .ok) rfl
        (h.goesOn hr hb (microOp_of_pending hr hp)
          ((BlockFrame.of_eq [] [] (by simp)).trans (frame_acquireDone _ _)) hb rfl rfl
          (event_kept h.kept (h.owed_none_of_pending hp) _) nofun rfl rfl)
    | err => exact appended (.acquire .err) rfl (h.refused hr hp rest)
  | unitAnswered l b r rest hp => exact appended _ (unitDone_trace ..) (h.unitAnswered hr hp r rest)
  | chunkAnswered src bs r rest hp => exact appended _ (chunkDone_trace ..) (h.chunkAnswered hr hp r rest)
  | waitReturned ms n hp =>
    have hb := busy_of_pending hr hp
    exact h.goesOn_silent hr hb (microOp_of_pending hr hp)
      ((BlockFrame.of_eq [] [] (by simp)).trans (frame_advance _)) hb rfl rfl (h.owed_none_of_pending hp) rfl rfl

/-- Settles O42: an answered transfer owes the wait at the next SEQ or none, the scan follows the last command and INIT
past each micro-operation, and a request that is over owes nothing. -/
theorem stepKeepsInitWaits : Obligations.StepKeepsInitWaits :=
  fun _ _ h hs => step_keeps waitInv_move h hs

end Sys2Proof.Proofs
end

section
/-! PROOFS. The requests that do not draw, run from acceptance to their response: INIT with every answer `ok`, under
IGNORE and under ABORT (R202 to R208, R265), and DISPLAY_INVERT, UNINIT and DISPLAY (R212, R214, R215). -/

namespace Sys2Proof.Proofs

open Sys2Proof.Machine Sys2Proof.Safety Sys2Proof.Laws

/-! ## One step of a run -/

/-- The state after micro-operations that emit `es`, SEQ, DC, the answers and the returns left being as given. -/
def went (q : Nat) (d : Option Level) (es : List Event) (as : List Answer) (n : Nat) (s : State) : State :=
  { s with seq := q, dc := d, trace := s.trace ++ es, answers := as, delayReturns := n }

theorem went_went (q q' : Nat) (d d' : Option Level) (es es' : List Event) (as as' : List Answer) (n n' : Nat)
    (s : State) : went q' d' es' as' n' (went q d es as n s) = went q' d' (es ++ es') as' n' s := by
  simp [went]

section Step

variable {m : MicroOp} {l : Level} {b : Byte} {s : State} {rest : List Answer}

/-- A unit is the call of its transfer, the line being driven first (R141, R142). -/
theorem step_unit (h : Undisturbed s) (hm : microOp s = some m) (hu : unitOf m = some (l, b)) :
    step s = .next (callOut (.unit l b) (driveDc l s)) := by
  have ⟨_, hready, _⟩ := h
  rw [step_micro h hm]
  obtain rfl := unitOp_of_unitOf hu
  cases l with
  | cmd =>
    cases hd : decodeWire b with
    | error e => simp [unitOp, unitOf, hd, Except.isOk, Except.toBool] at hu
    | ok i =>
      obtain ⟨hw, rfl⟩ := decodeWire_ok hd
      rw [unitOp, runMicroOp, runCommandByte, hd]
      exact exec_wire_ready hw (encode_wire i hw) hready
  | data => rfl

/-- A delivered unit (R141, R142). -/
theorem step_unit_ok (h : Undisturbed s) (hm : microOp s = some m) (hu : unitOf m = some (l, b))
    (ha : s.answers = .ok :: rest) :
    step s = .next (went (s.seq + 1) (some l) [.dc l, .xfer l [b] .ok] rest s.delayReturns s) := by
  have ⟨_, ⟨_, _, hp⟩, _⟩ := h
  exact (step_unit h hm hu).trans (congrArg _ (unit_ok hp ha))

/-- A failed unit (R151). -/
theorem step_unit_err (h : Undisturbed s) (hm : microOp s = some m) (hu : unitOf m = some (l, b))
    (ha : s.answers = .err :: rest) :
    step s = .next (transferFailed (went s.seq (some l) [.dc l, .xfer l [b] .err] rest s.delayReturns s)) := by
  have ⟨_, ⟨_, _, hp⟩, _⟩ := h
  exact (step_unit h hm hu).trans (congrArg _ (unit_err hp ha))

/-- An answered unit goes on: it is delivered, or INIT under IGNORE takes no notice (R206). -/
theorem step_unit_goesOn {r : Answer} (h : Undisturbed s) (hm : microOp s = some m) (hu : unitOf m = some (l, b))
    (ha : s.answers = r :: rest) (hr : r = .err → s.op = opCode .init ∧ s.cfg.initErrorPolicy = .ignore) :
    step s = .next (went (s.seq + 1) (some l) [.dc l, .xfer l [b] r] rest s.delayReturns s) := by
  cases r with
  | ok => exact step_unit_ok h hm hu ha
  | err =>
    obtain ⟨ho, hpolicy⟩ := hr rfl
    exact (step_unit_err h hm hu ha).trans (congrArg _ (transferFailed_goesOn ho hpolicy))

/-- A failed unit ends INIT under ABORT (R205, R265). -/
theorem step_unit_aborts (h : Undisturbed s) (hm : microOp s = some m) (hu : unitOf m = some (l, b))
    (ha : s.answers = .err :: rest) (ho : s.op = opCode .init) (hpolicy : s.cfg.initErrorPolicy = .abort) :
    step s = .next (respond .errTransfer (setLc .initFailed
      (went s.seq (some l) [.dc l, .xfer l [b] .err] rest s.delayReturns s))) :=
  (step_unit_err h hm hu ha).trans (congrArg _ (transferFailed_init ho hpolicy))

/-- A wait the DELAY is ready to return from (R146). -/
theorem step_wait {ms n : Nat} (h : Undisturbed s) (hm : microOp s = some (.wait ms)) (hd : s.delayReturns = n + 1) :
    step s = .next (went (s.seq + 1) s.dc [.wait ms] s.answers n s) := by
  have ⟨_, ⟨_, _, hp⟩, _⟩ := h
  rw [step_micro h hm]
  exact congrArg _ (callOut_returned (s := emit (.wait ms) s) hp hd)

/-- An acquisition that is answered `ok` (R147). -/
theorem step_acquire (h : Undisturbed s) (hm : microOp s = some .acquire) (ha : s.answers = .ok :: rest) :
    step s = .next (went (s.seq + 1) s.dc [.acquire .ok] rest s.delayReturns s) := by
  have ⟨_, ⟨_, _, hp⟩, _⟩ := h
  rw [step_micro h hm]
  exact congrArg _ (callOut_answered (p := .acquire) hp nofun ha)

/-- A block that waits for a request stays as it is (entry 14). -/
theorem step_idle (h : idle s) : step s = .next s := by
  obtain ⟨hc, hf, hb, hp, hport, hhost⟩ := h
  rw [step_block hc hf hport hhost, blockStep, hp]
  simp [hb]

end Step

/-! ## Units and waits in INIT -/

/-- What a micro-operation emits, its call answered `ok`. -/
def opEvents : MicroOp → List Event
  | .acquire => [.acquire .ok]
  | .writeCommand b => commandEvents b
  | .writeData b => dataEvents b
  | .wait ms => [.wait ms]
  | _ => []

/-- Does a micro-operation send a unit? -/
def sends (m : MicroOp) : Bool := (unitOf m).isSome

/-- Does a micro-operation wait? -/
def waits : MicroOp → Bool
  | .wait _ => true
  | _ => false

/-- A running INIT, undisturbed, with the micro-operations from SEQ on. -/
structure InitAhead (ms : List MicroOp) (s : State) : Prop where
  undisturbed : Undisturbed s
  op : s.op = opCode .init
  ahead : ms <+: (microProgram .init s).drop s.seq

section Sequence

variable {m : MicroOp} {ms : List MicroOp} {s : State} {rest : List Answer} {n : Nat}

theorem InitAhead.microOp (h : InitAhead (m :: ms) s) : microOp s = some m := by
  obtain ⟨tail, ht⟩ := h.ahead
  rw [microOp_eq h.op, ← Nat.add_zero s.seq, ← List.getElem?_drop, ← ht]
  rfl

theorem InitAhead.next (h : InitAhead (m :: ms) s) (d : Option Level) (es : List Event) (as : List Answer) (n : Nat) :
    InitAhead ms (went (s.seq + 1) d es as n s) := by
  obtain ⟨tail, ht⟩ := h.ahead
  refine ⟨h.undisturbed, h.op, tail, ?_⟩
  show ms ++ tail = (microProgram .init s).drop (s.seq + 1)
  rw [← List.tail_drop, ← ht]
  rfl

/-- A sequence is of units and waits. -/
theorem unit_or_wait (h : (sends m || waits m) = true) : (∃ l b, unitOf m = some (l, b)) ∨ ∃ d, m = .wait d := by
  rcases Bool.or_eq_true_iff.1 h with hs | hw
  · obtain ⟨⟨l, b⟩, hu⟩ := Option.isSome_iff_exists.1 hs
    exact .inl ⟨l, b, hu⟩
  · cases m with
    | wait d => exact .inr ⟨d, rfl⟩
    | _ => cases hw

/-- What a unit emits, and that it is no wait. -/
theorem unit_events {l : Level} {b : Byte} (hu : unitOf m = some (l, b)) :
    opEvents m = [.dc l, .xfer l [b] .ok] ∧ sends m = true ∧ waits m = false := by
  have hs : sends m = true := by rw [sends, hu]; rfl
  obtain rfl := unitOp_of_unitOf hu
  cases l <;> exact ⟨rfl, hs, rfl⟩

/-- Units and waits in INIT, every answer `ok` or the policy IGNORE: each unit is recorded with its answer (R202,
R206). -/
theorem steps_sequence : ∀ {ms : List MicroOp} {s : State} {as : List Answer}, InitAhead ms s →
    (∀ m ∈ ms, (sends m || waits m) = true) → as.length = ms.countP sends →
    (.err ∈ as → s.cfg.initErrorPolicy = .ignore) → s.answers = as ++ rest → s.delayReturns = n + ms.countP waits →
    steps ms.length s = .next (went (s.seq + ms.length) (lineAfter s.dc (ms.flatMap opEvents))
      (answered (ms.flatMap opEvents) as) rest n s) := by
  intro ms
  induction ms with
  | nil =>
    intro s as _ _ hlen _ ha hd
    obtain rfl := List.length_eq_zero_iff.1 hlen
    obtain rfl : s.answers = rest := ha
    obtain rfl : s.delayReturns = n := hd
    simp [went, lineAfter, answered]
  | cons m ms ih =>
    intro s as h hall hlen hpolicy ha hd
    have hall' : ∀ m' ∈ ms, (sends m' || waits m') = true := fun m' hm' => hall m' (List.mem_cons_of_mem m hm')
    have hseq : s.seq + (m :: ms).length = s.seq + 1 + ms.length := by rw [List.length_cons]; omega
    rw [hseq]
    obtain ⟨l, b, hu⟩ | ⟨d, rfl⟩ := unit_or_wait (hall m List.mem_cons_self)
    · obtain ⟨hevents, hs, hw⟩ := unit_events hu
      rw [List.countP_cons_of_pos hs] at hlen
      rw [List.countP_cons_of_neg (by simp [hw])] at hd
      obtain ⟨r, as, rfl⟩ := List.exists_cons_of_length_eq_add_one hlen
      rw [List.length_cons, steps_next (step_unit_goesOn h.undisturbed h.microOp hu ha fun hr =>
        ⟨h.op, hpolicy (by simp [hr])⟩)]
      have hpolicy' : .err ∈ as → s.cfg.initErrorPolicy = .ignore := fun he => hpolicy (List.mem_cons_of_mem r he)
      refine (ih (h.next _ _ _ _) hall' (Nat.succ.inj hlen) hpolicy' rfl hd).trans ?_
      rw [went_went, List.flatMap_cons, hevents]
      rfl
    · rw [List.countP_cons_of_neg (by simp [sends, unitOf])] at hlen
      rw [List.countP_cons_of_pos rfl] at hd
      rw [List.length_cons, steps_next (step_wait h.undisturbed h.microOp hd)]
      refine (ih (h.next _ _ _ _) hall' hlen hpolicy ha rfl).trans ?_
      rw [went_went, List.flatMap_cons]
      rfl

/-- Within k steps INIT aborts, having emitted `es`. -/
structure AbortsWithin (k : Nat) (es : List Event) (s : State) : Prop where
  run : ∃ j ≤ k, ∃ q d as n, steps j s = .next (respond .errTransfer (setLc .initFailed (went q d es as n s)))

theorem AbortsWithin.head {k q n : Nat} {d : Option Level} {es es' : List Event} {as : List Answer}
    (hs : step s = .next (went q d es as n s)) (h : AbortsWithin k es' (went q d es as n s)) :
    AbortsWithin (k + 1) (es ++ es') s := by
  obtain ⟨j, hj, q', d', as', n', run⟩ := h
  exact ⟨j + 1, Nat.succ_le_succ hj, q', d', as', n', (steps_next hs).trans (by rw [run, went_went])⟩

/-- Units and waits in INIT under ABORT, an answer `err` among those of the units: the first one ends INIT, whatever
events were to come (R205). -/
theorem sequence_aborts (tail : List Event) : ∀ {ms : List MicroOp} {s : State} {as : List Answer}, InitAhead ms s →
    (∀ m ∈ ms, (sends m || waits m) = true) → as.length ≤ ms.countP sends → .err ∈ as →
    s.cfg.initErrorPolicy = .abort → s.answers = as ++ rest → ms.countP waits ≤ s.delayReturns →
    AbortsWithin ms.length (untilError (ms.flatMap opEvents ++ tail) as) s := by
  intro ms
  induction ms with
  | nil =>
    intro s as _ _ hlen herr
    obtain rfl := List.length_eq_zero_iff.1 (Nat.le_zero.1 hlen)
    cases herr
  | cons m ms ih =>
    intro s as h hall hlen herr hpolicy ha hd
    have hall' : ∀ m' ∈ ms, (sends m' || waits m') = true := fun m' hm' => hall m' (List.mem_cons_of_mem m hm')
    obtain ⟨l, b, hu⟩ | ⟨d, rfl⟩ := unit_or_wait (hall m List.mem_cons_self)
    · obtain ⟨hevents, hs, hw⟩ := unit_events hu
      rw [List.countP_cons_of_pos hs] at hlen
      rw [List.countP_cons_of_neg (by simp [hw])] at hd
      rw [List.flatMap_cons, hevents]
      obtain ⟨r, as, rfl⟩ := List.exists_cons_of_ne_nil (List.ne_nil_of_mem herr)
      cases r with
      | err =>
        exact ⟨1, Nat.succ_pos _, _, _, _, _,
          (steps_next (k := 0) (step_unit_aborts h.undisturbed h.microOp hu ha h.op hpolicy)).trans (steps_zero _)⟩
      | ok =>
        exact .head (step_unit_goesOn h.undisturbed h.microOp hu ha nofun)
          (ih (h.next _ _ _ _) hall' (Nat.succ_le_succ_iff.1 hlen) (by simpa using herr) hpolicy rfl hd)
    · rw [List.countP_cons_of_neg (by simp [sends, unitOf])] at hlen
      rw [List.countP_cons_of_pos rfl] at hd
      obtain ⟨n, hn⟩ := Nat.exists_eq_add_one.2 (Nat.lt_of_lt_of_le (Nat.succ_pos _) hd)
      rw [hn] at hd
      exact .head (step_wait h.undisturbed h.microOp hn)
        (ih (h.next _ _ _ _) hall' hlen herr hpolicy ha (Nat.succ_le_succ_iff.1 hd))

end Sequence

/-! ## INIT -/

/-- INIT from its SWRESET to its DISPON, SEQ 1 to 24 (R202). -/
def initSequence (cfg : Config) : List MicroOp := ((initProgram cfg).drop 1).take 24

theorem initProgram_eq (cfg : Config) :
    initProgram cfg = .acquire :: (initSequence cfg ++ [.wait 500, .respond (some .ready)]) := rfl

theorem initEvents_eq (cfg : Config) :
    initEvents cfg = .acquire .ok :: ((initSequence cfg).flatMap opEvents ++ [.wait 500]) := rfl

theorem initSequence_units (cfg : Config) : ∀ m ∈ initSequence cfg, (sends m || waits m) = true :=
  List.all_eq_true.1 rfl

theorem initSequence_counts (cfg : Config) :
    (initSequence cfg).length = 24 ∧ (initSequence cfg).countP sends = 19 ∧ (initSequence cfg).countP waits = 5 :=
  ⟨rfl, rfl, rfl⟩

/-- A begun INIT acquires the transport and has its sequence ahead. -/
theorem init_acquires {s : State} {rest : List Answer} (h : Undisturbed s) (ho : s.op = opCode .init) (hq : s.seq = 0)
    (ha : s.answers = .ok :: rest) :
    step s = .next (went 1 s.dc [.acquire .ok] rest s.delayReturns s) ∧
      InitAhead (initSequence s.cfg ++ [.wait 500]) (went 1 s.dc [.acquire .ok] rest s.delayReturns s) := by
  have hm : microOp s = some .acquire := by rw [microOp_eq ho, hq]; rfl
  refine ⟨(step_acquire h hm ha).trans (by rw [hq]), h, ho, [.respond (some .ready)], ?_⟩
  exact List.append_assoc _ _ _

/-- INIT's response (R204). -/
theorem init_responds {s : State} (h : Undisturbed s) (ho : s.op = opCode .init) (hq : s.seq = 26) :
    step s = .next (respond .success (setLc .ready s)) :=
  step_respond (lc := some .ready) h (by rw [microOp_eq ho, hq]; rfl)

/-- The whole run of a begun INIT, every answer `ok` or the policy IGNORE (R202, R204, R206). -/
theorem steps_init {s : State} {as rest : List Answer} {n : Nat} (h : Undisturbed s) (ho : s.op = opCode .init)
    (hq : s.seq = 0) (hlen : as.length = 19) (hpolicy : .err ∈ as → s.cfg.initErrorPolicy = .ignore)
    (ha : s.answers = .ok :: as ++ rest) (hd : s.delayReturns = n + 6) :
    steps 27 s = .next (respond .success (setLc .ready
      (went 26 (lineAfter s.dc (initEvents s.cfg)) (answered (initEvents s.cfg) as) rest n s))) := by
  obtain ⟨acquired, ahead⟩ := init_acquires h ho hq ha
  have run := steps_sequence (n := n) ahead
    (List.forall_mem_append.2 ⟨initSequence_units s.cfg, by simp [waits]⟩) hlen hpolicy rfl hd
  rw [went_went, List.flatMap_append] at run
  rw [steps_next (k := 26) acquired, steps_add (a := 25) (b := 1) run, initEvents_eq]
  exact steps_next (k := 0) (init_responds (s := went 26 _ _ rest n s) h ho rfl)

/-- INIT is accepted in OFF, and its run is undisturbed (R121, R200). -/
theorem init_begins {s : State} (hs : idle s) (hl : s.lc = .off) :
    exec .init s = .next (beginRequest .init s) ∧ Undisturbed (beginRequest .init s) := by
  have ⟨_, hf, hb, _⟩ := hs
  exact ⟨(exec_init s).trans (accept_begins hf hb (by rw [hl]; rfl)),
    undisturbed_latch_beginRequest (f := id) hs (fun _ => rfl) .init⟩

/-- INIT's events with the answers they are listed with. -/
theorem answered_initEvents (cfg : Config) : answered (initEvents cfg) (List.replicate 19 .ok) = initEvents cfg := by
  rfl

/-- What R208 counts in INIT's events. -/
theorem initEvents_counts (cfg : Config) :
    (initEvents cfg).count (.acquire .ok) = 1 ∧ transferCount (initEvents cfg) = 19 ∧ dcCount (initEvents cfg) = 19 ∧
      waitsOf (initEvents cfg) = [150, 500, 10, 10, 10, 500] := by
  refine ⟨?_, ?_, ?_, ?_⟩ <;> rfl

/-- The bytes of INIT's events (R202). -/
theorem sentBytes_initEvents (cfg : Config) :
    sentBytes (initEvents cfg) =
      [0x01, 0x11, 0x3A, 0x55, 0x36, 0x00,
        0x2A, hi cfg.initCol0, lo cfg.initCol0, hi cfg.initCol1, lo cfg.initCol1,
        0x2B, hi cfg.initRow0, lo cfg.initRow0, hi cfg.initRow1, lo cfg.initRow1, 0x21, 0x13, 0x29] := by
  rfl

/-- Settles O49: the run with 19 answers `ok` of its transfers, and the counts of R202's events. -/
theorem initRunsToReady : Obligations.InitRunsToReady := by
  intro s rest n hidle hl ha hd
  obtain ⟨begun, undisturbed⟩ := init_begins hidle hl
  have ⟨_, hf, _⟩ := hidle
  obtain ⟨hacquire, htransfers, hdcs, hwaits⟩ := initEvents_counts s.cfg
  have run := steps_init (as := List.replicate 19 .ok) undisturbed rfl rfl List.length_replicate (by simp) ha hd
  refine ⟨⟨_, _, begun, run, ?_, rfl, rfl, rfl, hf, rfl, rfl, rfl, rfl⟩, hacquire, htransfers, hdcs, hwaits, ?_, ?_⟩
  · exact congrArg (s.trace ++ ·) (answered_initEvents s.cfg)
  · rw [hwaits]
    rfl
  · intro h0 h1 h2 h3
    rw [sentBytes_initEvents, h0, h1, h2, h3]
    rfl

/-- Settles O50: under IGNORE the same run takes any answers. -/
theorem initUnderIgnoreCompletes : Obligations.InitUnderIgnoreCompletes := by
  intro s as rest n hidle hl hpolicy hlen ha hd
  obtain ⟨begun, undisturbed⟩ := init_begins hidle hl
  have ⟨_, hf, _⟩ := hidle
  exact ⟨_, _, begun, steps_init undisturbed rfl rfl hlen (fun _ => hpolicy) ha hd, rfl, rfl, rfl, rfl, hf, rfl, rfl,
    rfl⟩

/-- The run of a begun INIT under ABORT with an answer `err`: the 24 micro-operations after the acquisition hold every
unit, and the last wait never comes (R205). -/
theorem init_aborts {s : State} {as rest : List Answer} (h : Undisturbed s) (ho : s.op = opCode .init) (hq : s.seq = 0)
    (hlen : as.length = 19) (herr : .err ∈ as) (hpolicy : s.cfg.initErrorPolicy = .abort)
    (ha : s.answers = .ok :: as ++ rest) (hd : 6 ≤ s.delayReturns) :
    AbortsWithin 25 (untilError (initEvents s.cfg) as) s := by
  obtain ⟨acquired, undisturbed, op, ahead⟩ := init_acquires h ho hq ha
  obtain ⟨hlength, hsends, hwaits⟩ := initSequence_counts s.cfg
  have aborts := sequence_aborts [.wait 500] ⟨undisturbed, op, (List.prefix_append _ _).trans ahead⟩
    (initSequence_units s.cfg) (hlen.trans hsends.symm).le herr hpolicy rfl (hwaits.trans_le ((Nat.le_succ 5).trans hd))
  rw [hlength] at aborts
  rw [initEvents_eq]
  exact .head acquired aborts

/-- Settles O51: INIT aborts with the failed transfer, and the block is idle again. -/
theorem initUnderAbortStopsAtFirstError : Obligations.InitUnderAbortStopsAtFirstError := by
  intro s as rest hidle hl hpolicy hlen herr ha hd
  obtain ⟨begun, undisturbed⟩ := init_begins hidle hl
  have ⟨hc, hf, _, hp, hport, hhost⟩ := hidle
  obtain ⟨k, hk, q, d, bs, n, run⟩ := init_aborts undisturbed rfl rfl hlen herr hpolicy ha hd
  refine ⟨_, _, k, begun, hk, run, rfl, rfl, rfl, rfl, hf, rfl, step_idle ?_⟩
  exact ⟨hc, hf, rfl, hp, hport, hhost⟩

/-! ## DISPLAY_INVERT, UNINIT and DISPLAY -/

/-- Settles O58: one unit and the response, the release and the response, and the response alone. -/
theorem invertUninitDisplayRun : Obligations.InvertUninitDisplayRun := by
  intro s hidle
  have ⟨_, hf, hb, _⟩ := hidle
  obtain ⟨-, uninitBegun, displayBegun⟩ := initUninitDisplayAccepted s hf hb
  refine ⟨fun b rest hl ha => ?_, fun hl => ?_, ?_⟩
  · obtain ⟨-, begun⟩ := rotationAndInvertAccepted 0 b s hf hb hl
    have undisturbed : Undisturbed (latchInv b (beginRequest .displayInvert s)) :=
      undisturbed_latch_beginRequest hidle (fun _ => rfl) .displayInvert
    have unit : unitOf (.writeCommand (if b then cmdCode .invon else cmdCode .invoff)) =
        some (.cmd, if b then 0x21 else 0x20) := by cases b <;> rfl
    have sent := step_unit_ok undisturbed rfl unit ha
    refine ⟨_, _, begun, (steps_next (k := 1) sent).trans (steps_next (k := 0) (step_respond (lc := none) ?_ ?_)), rfl,
      rfl, rfl, hl, hf, rfl⟩
    · exact undisturbed
    · rfl
  · have undisturbed : Undisturbed (beginRequest .uninit s) :=
      undisturbed_latch_beginRequest (f := id) hidle (fun _ => rfl) .uninit
    have released : step (beginRequest .uninit s) = .next (release (beginRequest .uninit s)) :=
      step_micro undisturbed rfl
    have responded := step_respond (s := release (beginRequest .uninit s)) (lc := some .off) undisturbed rfl
    exact ⟨_, _, uninitBegun hl, (steps_next (k := 1) released).trans (steps_next (k := 0) responded), rfl, rfl, rfl,
      rfl, hf, rfl⟩
  · have undisturbed : Undisturbed (beginRequest .display s) :=
      undisturbed_latch_beginRequest (f := id) hidle (fun _ => rfl) .display
    exact ⟨_, _, displayBegun, steps_next (k := 0) (step_respond (lc := none) undisturbed rfl), rfl, rfl, rfl, rfl, hf,
      rfl⟩

end Sys2Proof.Proofs
end

section
/-! PROOFS. The configuration (R6, R277): which raw configurations are admitted, and what a step answers under one that is
not. -/

namespace Sys2Proof.Proofs

open Sys2Proof.Machine Sys2Proof.Laws

/-! ## What each reader admits (R277) -/

theorem tabColor?_isSome (n : Nat) : (RawConfig.tabColor? n).isSome ↔ n < 4 :=
  match n with
  | 0 | 1 | 2 | 3 | _ + 4 => by simp [RawConfig.tabColor?]

theorem initErrorPolicy?_isSome (n : Nat) : (RawConfig.initErrorPolicy? n).isSome ↔ n < 2 :=
  match n with
  | 0 | 1 | _ + 2 => by simp [RawConfig.initErrorPolicy?]

theorem lengthCheck?_isSome (n : Nat) : (RawConfig.lengthCheck? n).isSome ↔ n < 2 :=
  match n with
  | 0 | 1 | _ + 2 => by simp [RawConfig.lengthCheck?]

theorem half?_isSome (n : Nat) : (RawConfig.half? n).isSome ↔ n < 65536 := by
  simp [RawConfig.half?]

theorem madctlRot?_isSome (l : List Nat) :
    (RawConfig.madctlRot? l).isSome ↔ l.length = 8 ∧ ∀ n ∈ l, n < 256 := by
  unfold RawConfig.madctlRot?
  split
  case h_1 => simp
  case h_2 other =>
    have hlen : l.length ≠ 8 := fun h =>
      match l, h with
      | [a, b, c, d, e, f, g, i], _ => other a b c d e f g i rfl
    simp [hlen]

/-! ## The whole configuration -/

theorem config_wf_iff (c : Config) : c.wf = true ↔ 32 ≤ c.chunkMax := by
  simp [Config.wf]

/-- Where what follows a reader answers or not whatever was read, the two answer together where each does. -/
theorem isSome_bind_iff {α β : Type} {o : Option α} {f : α → Option β} {p : Prop} (h : ∀ a, (f a).isSome ↔ p) :
    (o >>= f).isSome ↔ o.isSome ∧ p := by
  cases o <;> simp [h]

/-- A raw configuration is admitted where every reader admits its number and CHUNK_MAX meets R6. -/
theorem toConfig_isSome (r : RawConfig) : r.toConfig.isSome ↔
    (RawConfig.tabColor? r.tabColor).isSome ∧ (RawConfig.half? r.initCol0).isSome ∧
      (RawConfig.half? r.initCol1).isSome ∧ (RawConfig.half? r.initRow0).isSome ∧
      (RawConfig.half? r.initRow1).isSome ∧ (RawConfig.madctlRot? r.madctlRot).isSome ∧
      (RawConfig.initErrorPolicy? r.initErrorPolicy).isSome ∧ (RawConfig.lengthCheck? r.lengthCheck).isSome ∧
      32 ≤ r.chunkMax :=
  isSome_bind_iff fun _ => isSome_bind_iff fun _ => isSome_bind_iff fun _ => isSome_bind_iff fun _ =>
    isSome_bind_iff fun _ => isSome_bind_iff fun _ => isSome_bind_iff fun _ => isSome_bind_iff fun _ => by
      simp [config_wf_iff]

/-- Settles O12: each reader answers exactly on its range, and a configuration is admitted where all of them answer and
CHUNK_MAX is at least 32. -/
theorem admittedConfigurationsInRange : Obligations.AdmittedConfigurationsInRange := by
  intro r
  rw [← Option.isSome_iff_exists, toConfig_isSome]
  simp only [tabColor?_isSome, half?_isSome, madctlRot?_isSome, initErrorPolicy?_isSome, lengthCheck?_isSome]
  tauto

/-! ## A refused configuration -/

/-- Settles O11: a configuration below R6's bound is not admitted, and `step_refused` says what a step answers then. -/
theorem refusedConfigurationHasNoRun : Obligations.RefusedConfigurationHasNoRun := by
  intro s hs
  have hwf : ¬ s.cfg.wf = true := fun h => Nat.not_le.2 hs ((config_wf_iff s.cfg).1 h)
  exact step_refused (Bool.eq_false_iff.2 hwf)

end Sys2Proof.Proofs
end

section
/-! PROOFS. Reset (R300): the values it leaves, at power-on and by a reset move; and the base case of the invariants, where
the block is not busy, makes no call and TRACE is empty. -/

namespace Sys2Proof.Proofs

open Sys2Proof.Machine Sys2Proof.Safety Sys2Proof.Laws

/-! ## What reset leaves -/

/-- Settles O8: `State.reset` by its fields, and a reset move by `step_reset`, whose next state is `State.reset` with
what is outside the block's registers kept. -/
theorem resetLeavesSpecValues : Obligations.ResetLeavesSpecValues := by
  refine ⟨⟨rfl, rfl, rfl, rfl, rfl, rfl, rfl, rfl⟩, fun s rest hc hh => ?_⟩
  exact ⟨resetBlock { s with host := rest }, step_reset hc hh, rfl, rfl, rfl, rfl, rfl, rfl, rfl, rfl, rfl⟩

/-! ## The invariants at reset -/

/-- The reference configuration is admitted (R6, R277). -/
theorem configOk_reset : configOk State.reset = true := (config_wf_iff Config.reference).2 (by decide)

theorem requestInv_reset : RequestInv State.reset := requestInv_idle configOk_reset rfl rfl

theorem transferInv_reset : TransferInv State.reset := ⟨requestInv_reset, rfl⟩

/-- DC is not driven, and TRACE drives no line (R300, R305). -/
theorem lineInv_reset : LineInv State.reset := ⟨requestInv_reset, rfl, rfl⟩

/-- An empty TRACE owes no wait, and in it no INIT is under way (R304). -/
theorem waitInv_reset : WaitInv State.reset :=
  (waitInv_iff State.reset).2 ⟨requestInv_reset, .idle rfl rfl rfl nofun⟩

/-- LC is OFF, so the transport is not held (R44). -/
theorem heldInv_reset : HeldInv State.reset :=
  (heldInv_iff State.reset).2 ⟨requestInv_reset, heldNow_idle rfl⟩

/-- No drawing request runs. -/
theorem drawInv_reset : DrawInv State.reset := ⟨requestInv_reset, nofun⟩

/-- Settles O9: a block that waits with an empty TRACE meets each invariant, and empty memory is in canonical form. -/
theorem resetMeetsInvariants : Obligations.ResetMeetsInvariants :=
  ⟨transferInv_reset, lineInv_reset, waitInv_reset, heldInv_reset, drawInv_reset, rfl⟩

end Sys2Proof.Proofs
end
